-- ==== Sys2Proof/Word.lean ====
section
/-! DEFINITION. The unsigned widths of 00_scope.md R10: u8, u16 and u32. The block has no signed arithmetic. -/

namespace Sys2Proof

/-- u8: a byte of the wire, a command, a sequence number, a checksum. -/
abbrev Byte := BitVec 8

/-- u16: a node identifier, the flags field, the length field. -/
abbrev U16 := BitVec 16

/-- u32: a timeout, a CAN identifier, the LEGACY data field. -/
abbrev U32 := BitVec 32

end Sys2Proof
end

