-- ==== Sys2Proof/Config.lean ====
section
/-! DEFINITION. The parameters of 00_scope.md R7 and R8, as plain data held by the state (log 1), and the one free
value of the spec, the payload ANY of R219 (log 9). -/

namespace Sys2Proof

/-- WIRE_ORDER of R8: the byte order of multi-byte wire fields (20_memory.md R61). -/
inductive WireOrder where
  | le
  | be
deriving DecidableEq, Repr

/-- CAN_LAYOUT of R8, and the layout operand of CAN_BUILD (30_encoding.md R106, R107). -/
inductive CanLayout where
  | generic
  | legacy
deriving DecidableEq, Repr

/-- CAN_ID_BITS of R8: the identifier width, 11 (standard) or 29 (extended). -/
inductive CanIdBits where
  | std11
  | ext29
deriving DecidableEq, Repr

/-- The number of bits that CAN_ID_BITS stands for. -/
def CanIdBits.width : CanIdBits → Nat
  | .std11 => 11
  | .ext29 => 29

/-- The parameters of the block. R7 fixes the first six and R8 asks that each be kept as a field with R7's value as
its default; R8 gives WIRE_ORDER and SEQ_STRICT a value and leaves the others OPEN. The defaults of the OPEN ones are
DESIGN CHOICE, the settings of 95_test_vectors.md section 0 (log 1). -/
structure Config where
  /-- SYNC (R7). -/
  sync : Byte := 0xAA
  /-- SEED (R7). -/
  seed : Byte := 0xFE
  /-- HDR_LEN (R7). The layout of R80 has bytes 0 to 9, so only 10 agrees with it (log 13). -/
  hdrLen : Nat := 10
  /-- MAX_PAYLOAD (R7). -/
  maxPayload : Nat := 1024
  /-- BROADCAST_ID (R7). -/
  broadcastId : U16 := 0xFFFF
  /-- CAN_FRAME_BYTES (R7). A CanMsg has eight data bytes, so only 8 agrees with it (log 13). -/
  canFrameBytes : Nat := 8
  /-- WIRE_ORDER (R8, decision D2). -/
  wireOrder : WireOrder := .le
  /-- SEQ_STRICT (R8, decision D8). -/
  seqStrict : Bool := false
  /-- N_TASKS (R8, OPEN). -/
  nTasks : Nat := 2
  /-- UNDEFINED_ID (R8, OPEN). -/
  undefinedId : U16 := 0x0000
  /-- RX_FIFO_DEPTH (R8, OPEN). -/
  rxFifoDepth : Nat := 64
  /-- TXQ_CAP (R8, OPEN, at least MAX_FRAME). -/
  txqCap : Nat := 2048
  /-- CAN_LAYOUT (R8, OPEN). -/
  canLayout : CanLayout := .generic
  /-- CAN_ID_BITS (R8, OPEN). -/
  canIdBits : CanIdBits := .std11
  /-- CAN_RXQ_DEPTH (R8, OPEN). -/
  canRxqDepth : Nat := 4
  /-- CAN_TXQ_DEPTH (R8, OPEN). -/
  canTxqDepth : Nat := 4
  /-- TICK_PERIOD (R8, OPEN): R330 says that no rule depends on it, and no definition of the model reads it. -/
  tickPeriod : Nat := 1
deriving DecidableEq, Repr

/-- MAX_FRAME = HDR_LEN + MAX_PAYLOAD (R7, 90_conflicts.md C10). -/
def Config.maxFrame (c : Config) : Nat := c.hdrLen + c.maxPayload

/-- The ranges R7 and R8 give the parameters: the header length and the CAN frame size are the layouts' own, a legal
payload length fits the u16 length field (R85), and the OPEN parameters meet the bounds of R8's type column. -/
def Config.legal (c : Config) : Bool :=
  c.hdrLen == 10 && c.canFrameBytes == 8 && decide (c.maxPayload ≤ 0xFFFF) && decide (1 ≤ c.nTasks)
    && decide (1 ≤ c.rxFifoDepth) && decide (c.maxFrame ≤ c.txqCap) && decide (1 ≤ c.canRxqDepth)
    && decide (1 ≤ c.canTxqDepth)

/-- ANY of R219: the n-th drawn payload, a free byte sequence of any length, under no law (log 9). It has no body, so
no proof can rest on its value. -/
opaque Config.anyPayload : Nat → List Byte

end Sys2Proof
end

