-- ==== Sys2Proof/Syntax.lean ====
section
/-! DEFINITION. The records of 00_scope.md R12, the argument types of 30_encoding.md R110, and Instr: one constructor
for each row of opcode_table.json. -/

namespace Sys2Proof

/-- The Frame record of R12. The flag bits are read by the accessors of Machine/Flags.lean. -/
structure Frame where
  command : Byte
  identifier : U16
  flags : U16
  length : U16
  seq : Byte
  checksum : Byte
  data : List Byte
deriving DecidableEq, Repr

/-- u8[8]: the data bytes of a CAN message (R109, R12). -/
structure Bytes8 where
  b0 : Byte
  b1 : Byte
  b2 : Byte
  b3 : Byte
  b4 : Byte
  b5 : Byte
  b6 : Byte
  b7 : Byte
deriving DecidableEq, Repr

/-- The CanMsg record of R12: id u32, len u4, data u8[8]. -/
structure CanMsg where
  id : U32
  len : BitVec 4
  data : Bytes8
deriving DecidableEq, Repr

/-- GENERIC fields of R106: as CAN_BUILD's operand the args may be of any length; a parsed view has exactly seven. -/
structure GenericFields where
  cmd : Byte
  args : List Byte
deriving DecidableEq, Repr

/-- LEGACY fields of R107. -/
structure LegacyFields where
  command : Byte
  event : Byte
  reserved : U16
  data : U32
deriving DecidableEq, Repr

/-- CAN_BUILD's operands (44_can.md R258): a layout and its fields. -/
inductive CanFields where
  | generic (fields : GenericFields)
  | legacy (fields : LegacyFields)
deriving DecidableEq, Repr

/-- SEND_EVENT's second operand (44_can.md R262): args bytes, or a data word. -/
inductive EventOperand where
  | args (bytes : List Byte)
  | data (word : U32)
deriving DecidableEq, Repr

/-- One constructor for each row of opcode_table.json. The first fifteen are the operations of R110, with the arguments
in its order; the next seven the environment events of R113; the last thirteen the serial command codes of R91 to R103,
with the other fields of the frame that carries the command byte (R80). -/
inductive Instr where
  /-- CSUM, code 0x01 (R125). -/
  | csum (command : Byte) (identifier flags : U16) (seq : Byte) (data : List Byte)
  /-- CSUM_VERIFY, code 0x02 (R130). -/
  | csumVerify (buf : List Byte)
  /-- ENCODE, code 0x03 (R140). -/
  | encodeFrame (command : Byte) (identifier flags : U16) (seq : Byte) (data : List Byte)
  /-- DECODE, code 0x04 (R142). -/
  | decodeFrame (buf : List Byte)
  /-- TX_WRITE, code 0x10 (R170). -/
  | txWrite (command : Byte) (identifier flags : U16) (seq : Byte) (data : List Byte) (T : U32)
  /-- RX_READ, code 0x11 (R175). -/
  | rxRead (T : U32)
  /-- REQUEST_FROM, code 0x12 (R185). -/
  | requestFrom (command : Byte) (identifier flags : U16) (seq : Byte) (data : List Byte) (T : U32)
  /-- SEND_REQUEST, code 0x13 (R210). -/
  | sendRequest (node : U16) (payload : List Byte) (ack : Bool) (T : U32)
  /-- RESPOND, code 0x14 (R220). -/
  | respond (req : Frame) (payload : List Byte) (err : Option Byte) (T : U32)
  /-- SET_NODE_ID, code 0x15 (R225). -/
  | setNodeId (id : U16)
  /-- CAN_WRITE, code 0x20 (R240). -/
  | canWrite (data : Bytes8) (id : U32) (len : BitVec 4) (T : U32)
  /-- CAN_READ, code 0x21 (R245). -/
  | canRead (T : U32)
  /-- CAN_PARSE, code 0x22 (R250). -/
  | canParse (msg : CanMsg)
  /-- CAN_BUILD, code 0x23 (R258). -/
  | canBuild (fields : CanFields)
  /-- SEND_EVENT, code 0x24 (R262). -/
  | sendEvent (event : Byte) (operand : EventOperand) (T : U32)
  /-- WIRE_RX_BYTE, event code 0x80 (R195). -/
  | wireRxByte (b : Byte)
  /-- WIRE_RX_ERROR, event code 0x81 (R196). -/
  | wireRxError
  /-- WIRE_TX_BYTE, event code 0x82 (R197). -/
  | wireTxByte
  /-- CAN_RX_MSG, event code 0x83 (R265). -/
  | canRxMsg (m : CanMsg)
  /-- CAN_TX_DONE, event code 0x84 (R266). -/
  | canTxDone
  /-- TICK, event code 0x85 (R198). -/
  | tick
  /-- RESET, event code 0x86 (R310). -/
  | reset
  /-- CMD_NOP, command byte 0x00 (R91). -/
  | cmdNop (identifier flags length : U16) (seq checksum : Byte) (data : List Byte)
  /-- CMD_RESTART, command byte 0x01 (R92). -/
  | cmdRestart (identifier flags length : U16) (seq checksum : Byte) (data : List Byte)
  /-- CMD_PING, command byte 0x02 (R93). -/
  | cmdPing (identifier flags length : U16) (seq checksum : Byte) (data : List Byte)
  /-- CMD_LED_CTRL, command byte 0x03 (R94). -/
  | cmdLedCtrl (identifier flags length : U16) (seq checksum : Byte) (data : List Byte)
  /-- CMD_DISCOVER, command byte 0x04 (R95). -/
  | cmdDiscover (identifier flags length : U16) (seq checksum : Byte) (data : List Byte)
  /-- CMD_GET_BOARD_INFO, command byte 0x05 (R96). -/
  | cmdGetBoardInfo (identifier flags length : U16) (seq checksum : Byte) (data : List Byte)
  /-- CMD_REQUEST, command byte 0x06 (R97). -/
  | cmdRequest (identifier flags length : U16) (seq checksum : Byte) (data : List Byte)
  /-- CMD_EVENT, command byte 0x07 (R98). -/
  | cmdEvent (identifier flags length : U16) (seq checksum : Byte) (data : List Byte)
  /-- CMD_FLASH_LOADER_BEGIN, command byte 0x08 (R99). -/
  | cmdFlashLoaderBegin (identifier flags length : U16) (seq checksum : Byte) (data : List Byte)
  /-- CMD_FLASH_LOADER_WRITE, command byte 0x09 (R100). -/
  | cmdFlashLoaderWrite (identifier flags length : U16) (seq checksum : Byte) (data : List Byte)
  /-- CMD_FLASH_LOADER_CHECK, command byte 0x0A (R101). -/
  | cmdFlashLoaderCheck (identifier flags length : U16) (seq checksum : Byte) (data : List Byte)
  /-- CMD_FLASH_LOADER_END, command byte 0x0B (R102). -/
  | cmdFlashLoaderEnd (identifier flags length : U16) (seq checksum : Byte) (data : List Byte)
  /-- CMD_READ_REGISTER, command byte 0x0C (R103). -/
  | cmdReadRegister (identifier flags length : U16) (seq checksum : Byte) (data : List Byte)
deriving DecidableEq, Repr

end Sys2Proof
end

