-- ==== Sys2Proof/WellFormed.lean ====
section
/-! DEFINITION. Which instructions can be spelled: every operation and event, for its arguments' types hold the ranges of
R110 and a byte sequence has any length; and a frame that carries a command, when it has as many payload bytes as its
length field says (R80). -/

namespace Sys2Proof

/-- The payload of a wire frame is as long as the frame's length field says (R80, R89). -/
def framed (length : U16) (data : List Byte) : Bool := data.length == length.toNat

/-- The instructions that can be written down. Every other range of R110 is held by the arguments' types. -/
def Instr.wf : Instr → Bool
  | .csum _ _ _ _ _ => true
  | .csumVerify _ => true
  | .encodeFrame _ _ _ _ _ => true
  | .decodeFrame _ => true
  | .txWrite _ _ _ _ _ _ => true
  | .rxRead _ => true
  | .requestFrom _ _ _ _ _ _ => true
  | .sendRequest _ _ _ _ => true
  | .respond _ _ _ _ => true
  | .setNodeId _ => true
  | .canWrite _ _ _ _ => true
  | .canRead _ => true
  | .canParse _ => true
  | .canBuild _ => true
  | .sendEvent _ _ _ => true
  | .wireRxByte _ => true
  | .wireRxError => true
  | .wireTxByte => true
  | .canRxMsg _ => true
  | .canTxDone => true
  | .tick => true
  | .reset => true
  | .cmdNop _ _ length _ _ data => framed length data
  | .cmdRestart _ _ length _ _ data => framed length data
  | .cmdPing _ _ length _ _ data => framed length data
  | .cmdLedCtrl _ _ length _ _ data => framed length data
  | .cmdDiscover _ _ length _ _ data => framed length data
  | .cmdGetBoardInfo _ _ length _ _ data => framed length data
  | .cmdRequest _ _ length _ _ data => framed length data
  | .cmdEvent _ _ length _ _ data => framed length data
  | .cmdFlashLoaderBegin _ _ length _ _ data => framed length data
  | .cmdFlashLoaderWrite _ _ length _ _ data => framed length data
  | .cmdFlashLoaderCheck _ _ length _ _ data => framed length data
  | .cmdFlashLoaderEnd _ _ length _ _ data => framed length data
  | .cmdReadRegister _ _ length _ _ data => framed length data

end Sys2Proof
end

