-- ==== Sys2Proof/Decode.lean ====
section
/-! DEFINITION. The decoder and the encoder. The code byte selects the operation or event alone, with mask 0xFF
(30_encoding.md R111, R113); a serial frame starts with the sync byte and its byte 1 selects the command (R80). R111
gives the arguments as typed values and no bytes: the serialisation below is a DESIGN CHOICE (log 5). Every value is
written in the order of R110, a multi-byte value least significant byte first, a byte sequence of any
length as each byte after a tag 1 and then a tag 0, a Bool as 0 or 1, and a choice after a tag byte. -/

namespace Sys2Proof

/-- Why a byte sequence spells no instruction. -/
inductive DecodeError where
  /-- No byte at all. -/
  | empty
  /-- The code byte is in neither R110 nor R113, and is not the sync byte (R114). -/
  | unassigned (code : Byte)
  /-- A frame whose command byte is not among R91 to R103; the block passes it like every other (R104). -/
  | unassignedCommand (command : Byte)
  /-- The bytes end inside an argument. -/
  | truncated
  /-- A Bool, a tag or a CAN length outside its type (R115: it cannot be spelled). -/
  | badTag (tag : Byte)
  /-- Bytes after the last argument. -/
  | trailing
  /-- A schedule entry that is an operation descriptor: only a task issues operations (R113). -/
  | notAnEvent
deriving DecidableEq, Repr

/-- One value read, and the bytes after it. -/
abbrev Rest (α : Type) := α × List Byte

/-! ## Readers of the typed values -/

def readU8 : List Byte → Except DecodeError (Rest Byte)
  | b :: r => .ok (b, r)
  | [] => .error .truncated

def readU16 : List Byte → Except DecodeError (Rest U16)
  | b0 :: b1 :: r => .ok (b1 ++ b0, r)
  | _ => .error .truncated

def readU32 : List Byte → Except DecodeError (Rest U32)
  | b0 :: b1 :: b2 :: b3 :: r => .ok (b3 ++ b2 ++ b1 ++ b0, r)
  | _ => .error .truncated

/-- A run of n bytes. -/
def readRun (n : Nat) (r : List Byte) : Except DecodeError (Rest (List Byte)) :=
  if n ≤ r.length then .ok (r.take n, r.drop n) else .error .truncated

/-- A byte sequence of any length (R110, R16): tag 1 says that a byte follows, tag 0 that the sequence ends. -/
def readBytes : List Byte → Except DecodeError (Rest (List Byte))
  | [] => .error .truncated
  | [t] => if t = 0x00 then .ok ([], []) else if t = 0x01 then .error .truncated else .error (.badTag t)
  | t :: b :: r =>
    if t = 0x00 then .ok ([], b :: r)
    else if t = 0x01 then do
      let (bs, r) ← readBytes r
      .ok (b :: bs, r)
    else .error (.badTag t)

def readBool (r : List Byte) : Except DecodeError (Rest Bool) := do
  let (b, r) ← readU8 r
  if b = 0x00 then .ok (false, r) else if b = 0x01 then .ok (true, r) else .error (.badTag b)

/-- "none or u8": tag 0 is none; tag 1 is followed by the value. -/
def readErr (r : List Byte) : Except DecodeError (Rest (Option Byte)) := do
  let (b, r) ← readBool r
  if b then do
    let (e, r) ← readU8 r
    .ok (some e, r)
  else .ok (none, r)

/-- A CAN length, 0 to 15 (R110). -/
def readLen (r : List Byte) : Except DecodeError (Rest (BitVec 4)) := do
  let (b, r) ← readU8 r
  if b.toNat < 16 then .ok (b.setWidth 4, r) else .error (.badTag b)

def readBytes8 : List Byte → Except DecodeError (Rest Bytes8)
  | b0 :: b1 :: b2 :: b3 :: b4 :: b5 :: b6 :: b7 :: r => .ok (⟨b0, b1, b2, b3, b4, b5, b6, b7⟩, r)
  | _ => .error .truncated

def readCanMsg (r : List Byte) : Except DecodeError (Rest CanMsg) := do
  let (id, r) ← readU32 r
  let (len, r) ← readLen r
  let (data, r) ← readBytes8 r
  .ok (⟨id, len, data⟩, r)

/-- A Frame argument: its seven fields in the order of R12, the data as a byte sequence. -/
def readFrame (r : List Byte) : Except DecodeError (Rest Frame) := do
  let (command, r) ← readU8 r
  let (identifier, r) ← readU16 r
  let (flags, r) ← readU16 r
  let (length, r) ← readU16 r
  let (seq, r) ← readU8 r
  let (checksum, r) ← readU8 r
  let (data, r) ← readBytes r
  .ok (⟨command, identifier, flags, length, seq, checksum, data⟩, r)

/-- CAN_BUILD's layout and fields: tag 0 is GENERIC, tag 1 LEGACY. -/
def readCanFields (r : List Byte) : Except DecodeError (Rest CanFields) := do
  let (legacy, r) ← readBool r
  if legacy then do
    let (command, r) ← readU8 r
    let (event, r) ← readU8 r
    let (reserved, r) ← readU16 r
    let (data, r) ← readU32 r
    .ok (.legacy ⟨command, event, reserved, data⟩, r)
  else do
    let (cmd, r) ← readU8 r
    let (args, r) ← readBytes r
    .ok (.generic ⟨cmd, args⟩, r)

/-- SEND_EVENT's operand: tag 0 is args, tag 1 is data. -/
def readEventOperand (r : List Byte) : Except DecodeError (Rest EventOperand) := do
  let (word, r) ← readBool r
  if word then do
    let (data, r) ← readU32 r
    .ok (.data data, r)
  else do
    let (args, r) ← readBytes r
    .ok (.args args, r)

/-- The arguments that CSUM, ENCODE, TX_WRITE and REQUEST_FROM share (R116: no length, no checksum). -/
def readFrameArgs (r : List Byte) : Except DecodeError (Rest (Byte × U16 × U16 × Byte × List Byte)) := do
  let (command, r) ← readU8 r
  let (identifier, r) ← readU16 r
  let (flags, r) ← readU16 r
  let (seq, r) ← readU8 r
  let (data, r) ← readBytes r
  .ok ((command, identifier, flags, seq, data), r)

/-! ## The operations and events, by code -/

def readCsum (r : List Byte) : Except DecodeError (Rest Instr) := do
  let ((command, identifier, flags, seq, data), r) ← readFrameArgs r
  .ok (.csum command identifier flags seq data, r)

def readCsumVerify (r : List Byte) : Except DecodeError (Rest Instr) := do
  let (buf, r) ← readBytes r
  .ok (.csumVerify buf, r)

def readEncodeFrame (r : List Byte) : Except DecodeError (Rest Instr) := do
  let ((command, identifier, flags, seq, data), r) ← readFrameArgs r
  .ok (.encodeFrame command identifier flags seq data, r)

def readDecodeFrame (r : List Byte) : Except DecodeError (Rest Instr) := do
  let (buf, r) ← readBytes r
  .ok (.decodeFrame buf, r)

def readTxWrite (r : List Byte) : Except DecodeError (Rest Instr) := do
  let ((command, identifier, flags, seq, data), r) ← readFrameArgs r
  let (T, r) ← readU32 r
  .ok (.txWrite command identifier flags seq data T, r)

def readRxRead (r : List Byte) : Except DecodeError (Rest Instr) := do
  let (T, r) ← readU32 r
  .ok (.rxRead T, r)

def readRequestFrom (r : List Byte) : Except DecodeError (Rest Instr) := do
  let ((command, identifier, flags, seq, data), r) ← readFrameArgs r
  let (T, r) ← readU32 r
  .ok (.requestFrom command identifier flags seq data T, r)

def readSendRequest (r : List Byte) : Except DecodeError (Rest Instr) := do
  let (node, r) ← readU16 r
  let (payload, r) ← readBytes r
  let (ack, r) ← readBool r
  let (T, r) ← readU32 r
  .ok (.sendRequest node payload ack T, r)

def readRespond (r : List Byte) : Except DecodeError (Rest Instr) := do
  let (req, r) ← readFrame r
  let (payload, r) ← readBytes r
  let (err, r) ← readErr r
  let (T, r) ← readU32 r
  .ok (.respond req payload err T, r)

def readSetNodeId (r : List Byte) : Except DecodeError (Rest Instr) := do
  let (id, r) ← readU16 r
  .ok (.setNodeId id, r)

def readCanWrite (r : List Byte) : Except DecodeError (Rest Instr) := do
  let (data, r) ← readBytes8 r
  let (id, r) ← readU32 r
  let (len, r) ← readLen r
  let (T, r) ← readU32 r
  .ok (.canWrite data id len T, r)

def readCanRead (r : List Byte) : Except DecodeError (Rest Instr) := do
  let (T, r) ← readU32 r
  .ok (.canRead T, r)

def readCanParse (r : List Byte) : Except DecodeError (Rest Instr) := do
  let (msg, r) ← readCanMsg r
  .ok (.canParse msg, r)

def readCanBuild (r : List Byte) : Except DecodeError (Rest Instr) := do
  let (fields, r) ← readCanFields r
  .ok (.canBuild fields, r)

def readSendEvent (r : List Byte) : Except DecodeError (Rest Instr) := do
  let (event, r) ← readU8 r
  let (operand, r) ← readEventOperand r
  let (T, r) ← readU32 r
  .ok (.sendEvent event operand T, r)

def readWireRxByte (r : List Byte) : Except DecodeError (Rest Instr) := do
  let (b, r) ← readU8 r
  .ok (.wireRxByte b, r)

def readCanRxMsg (r : List Byte) : Except DecodeError (Rest Instr) := do
  let (m, r) ← readCanMsg r
  .ok (.canRxMsg m, r)

/-- The operations of R110: code and argument reader, one row an operation. -/
def operationRows : List (Byte × (List Byte → Except DecodeError (Rest Instr))) :=
  [ (0x01, readCsum), (0x02, readCsumVerify), (0x03, readEncodeFrame), (0x04, readDecodeFrame),
    (0x10, readTxWrite), (0x11, readRxRead), (0x12, readRequestFrom), (0x13, readSendRequest),
    (0x14, readRespond), (0x15, readSetNodeId), (0x20, readCanWrite), (0x21, readCanRead),
    (0x22, readCanParse), (0x23, readCanBuild), (0x24, readSendEvent) ]

/-- The environment events of R113: code and argument reader, one row an event. -/
def eventRows : List (Byte × (List Byte → Except DecodeError (Rest Instr))) :=
  [ (0x80, readWireRxByte), (0x81, fun r => .ok (.wireRxError, r)), (0x82, fun r => .ok (.wireTxByte, r)),
    (0x83, readCanRxMsg), (0x84, fun r => .ok (.canTxDone, r)), (0x85, fun r => .ok (.tick, r)),
    (0x86, fun r => .ok (.reset, r)) ]

/-- The serial command codes of R91 to R103: command byte and constructor, one row a command. -/
def commandRows : List (Byte × (U16 → U16 → U16 → Byte → Byte → List Byte → Instr)) :=
  [ (0x00, .cmdNop), (0x01, .cmdRestart), (0x02, .cmdPing), (0x03, .cmdLedCtrl), (0x04, .cmdDiscover),
    (0x05, .cmdGetBoardInfo), (0x06, .cmdRequest), (0x07, .cmdEvent), (0x08, .cmdFlashLoaderBegin),
    (0x09, .cmdFlashLoaderWrite), (0x0A, .cmdFlashLoaderCheck), (0x0B, .cmdFlashLoaderEnd),
    (0x0C, .cmdReadRegister) ]

/-- The first byte of a spelled serial frame: R7's SYNC, which is no code of R110 or R113. -/
def frameMark : Byte := 0xAA

/-- A serial frame after its sync byte, in the layout of R80 (low byte first, R61): the command byte selects the row. -/
def readCommandFrame (r : List Byte) : Except DecodeError (Rest Instr) := do
  let (command, r) ← readU8 r
  match commandRows.lookup command with
  | none => .error (.unassignedCommand command)
  | some make => do
    let (identifier, r) ← readU16 r
    let (flags, r) ← readU16 r
    let (length, r) ← readU16 r
    let (seq, r) ← readU8 r
    let (checksum, r) ← readU8 r
    let (data, r) ← readRun length.toNat r
    .ok (make identifier flags length seq checksum data, r)

/-- The decoder: the instruction that the bytes begin with, and the bytes after it. -/
def decode : List Byte → Except DecodeError (Rest Instr)
  | [] => .error .empty
  | b :: r =>
    if b = frameMark then readCommandFrame r
    else match operationRows.lookup b with
      | some read => read r
      | none => match eventRows.lookup b with
        | some read => read r
        | none => .error (.unassigned b)

/-- The bytes of exactly one instruction. -/
def decodeWhole (d : List Byte) : Except DecodeError Instr :=
  match decode d with
  | .error e => .error e
  | .ok (i, []) => .ok i
  | .ok (_, _ :: _) => .error .trailing

/-- R110: the code byte of an operation that a task can issue. -/
def isOperationCode (b : Byte) : Bool := (operationRows.lookup b).isSome

/-- A task's descriptor: a code outside R110 is unassigned (R114: an event code and the sync byte too). -/
def decodeOperation : List Byte → Except DecodeError Instr
  | [] => .error .empty
  | b :: r => if isOperationCode b then decodeWhole (b :: r) else .error (.unassigned b)

/-- A step of an environment agent: an event descriptor (R113) or a whole serial frame from the wire (R80). -/
def decodeEnvironment : List Byte → Except DecodeError Instr
  | [] => .error .empty
  | b :: r => if isOperationCode b then .error .notAnEvent else decodeWhole (b :: r)

/-! ## The encoder -/

def putU16 (v : U16) : List Byte := [v.extractLsb' 0 8, v.extractLsb' 8 8]

def putU32 (v : U32) : List Byte :=
  [v.extractLsb' 0 8, v.extractLsb' 8 8, v.extractLsb' 16 8, v.extractLsb' 24 8]

def putBytes : List Byte → List Byte
  | [] => [0x00]
  | b :: bs => 0x01 :: b :: putBytes bs

def putBool (b : Bool) : List Byte := if b then [0x01] else [0x00]

def putErr : Option Byte → List Byte
  | none => putBool false
  | some e => putBool true ++ [e]

def putLen (len : BitVec 4) : List Byte := [len.setWidth 8]

def putBytes8 (d : Bytes8) : List Byte := [d.b0, d.b1, d.b2, d.b3, d.b4, d.b5, d.b6, d.b7]

def putCanMsg (m : CanMsg) : List Byte := putU32 m.id ++ putLen m.len ++ putBytes8 m.data

def putFrame (f : Frame) : List Byte :=
  [f.command] ++ putU16 f.identifier ++ putU16 f.flags ++ putU16 f.length ++ [f.seq, f.checksum] ++ putBytes f.data

def putCanFields : CanFields → List Byte
  | .generic f => putBool false ++ [f.cmd] ++ putBytes f.args
  | .legacy f => putBool true ++ [f.command, f.event] ++ putU16 f.reserved ++ putU32 f.data

def putEventOperand : EventOperand → List Byte
  | .args bs => putBool false ++ putBytes bs
  | .data w => putBool true ++ putU32 w

def putFrameArgs (command : Byte) (identifier flags : U16) (seq : Byte) (data : List Byte) : List Byte :=
  [command] ++ putU16 identifier ++ putU16 flags ++ [seq] ++ putBytes data

/-- The wire bytes of a frame that carries a command (R83, low byte first), with its checksum byte as given. -/
def putCommandFrame (command : Byte) (identifier flags length : U16) (seq checksum : Byte) (data : List Byte) :
    List Byte :=
  [frameMark, command] ++ putU16 identifier ++ putU16 flags ++ putU16 length ++ [seq, checksum] ++ data

/-- The encoder: the bytes of a well-formed instruction, from the same tables (R110, R113, R80, R91 to R103). -/
def encode : Instr → List Byte
  | .csum command identifier flags seq data => [0x01] ++ putFrameArgs command identifier flags seq data
  | .csumVerify buf => [0x02] ++ putBytes buf
  | .encodeFrame command identifier flags seq data => [0x03] ++ putFrameArgs command identifier flags seq data
  | .decodeFrame buf => [0x04] ++ putBytes buf
  | .txWrite command identifier flags seq data T =>
    [0x10] ++ putFrameArgs command identifier flags seq data ++ putU32 T
  | .rxRead T => [0x11] ++ putU32 T
  | .requestFrom command identifier flags seq data T =>
    [0x12] ++ putFrameArgs command identifier flags seq data ++ putU32 T
  | .sendRequest node payload ack T => [0x13] ++ putU16 node ++ putBytes payload ++ putBool ack ++ putU32 T
  | .respond req payload err T => [0x14] ++ putFrame req ++ putBytes payload ++ putErr err ++ putU32 T
  | .setNodeId id => [0x15] ++ putU16 id
  | .canWrite data id len T => [0x20] ++ putBytes8 data ++ putU32 id ++ putLen len ++ putU32 T
  | .canRead T => [0x21] ++ putU32 T
  | .canParse msg => [0x22] ++ putCanMsg msg
  | .canBuild fields => [0x23] ++ putCanFields fields
  | .sendEvent event operand T => [0x24, event] ++ putEventOperand operand ++ putU32 T
  | .wireRxByte b => [0x80, b]
  | .wireRxError => [0x81]
  | .wireTxByte => [0x82]
  | .canRxMsg m => [0x83] ++ putCanMsg m
  | .canTxDone => [0x84]
  | .tick => [0x85]
  | .reset => [0x86]
  | .cmdNop i f l s c d => putCommandFrame 0x00 i f l s c d
  | .cmdRestart i f l s c d => putCommandFrame 0x01 i f l s c d
  | .cmdPing i f l s c d => putCommandFrame 0x02 i f l s c d
  | .cmdLedCtrl i f l s c d => putCommandFrame 0x03 i f l s c d
  | .cmdDiscover i f l s c d => putCommandFrame 0x04 i f l s c d
  | .cmdGetBoardInfo i f l s c d => putCommandFrame 0x05 i f l s c d
  | .cmdRequest i f l s c d => putCommandFrame 0x06 i f l s c d
  | .cmdEvent i f l s c d => putCommandFrame 0x07 i f l s c d
  | .cmdFlashLoaderBegin i f l s c d => putCommandFrame 0x08 i f l s c d
  | .cmdFlashLoaderWrite i f l s c d => putCommandFrame 0x09 i f l s c d
  | .cmdFlashLoaderCheck i f l s c d => putCommandFrame 0x0A i f l s c d
  | .cmdFlashLoaderEnd i f l s c d => putCommandFrame 0x0B i f l s c d
  | .cmdReadRegister i f l s c d => putCommandFrame 0x0C i f l s c d

/-! ## One word of opcode_table.json -/

/-- The bytes of a table word, least significant first. -/
def wordBytes : Nat → Nat → List Byte
  | 0, _ => []
  | n + 1, w => BitVec.ofNat 8 w :: wordBytes n (w / 256)

/-- The bytes above a table word, all 0: more than the longest instruction with zero operands takes. -/
def zeroOperands : List Byte := List.replicate 32 0x00

/-- A table word as it is read, zero operands after it. A code that is an operation or event code is read as one; any
other as the command byte of a frame, so after the sync byte (R80, log 7). -/
def tableWordPadded (nbits w : Nat) : List Byte :=
  let bs := wordBytes (nbits / 8) w
  match decode (bs ++ zeroOperands) with
  | .error (.unassigned _) => frameMark :: (bs ++ zeroOperands)
  | _ => bs ++ zeroOperands

/-- The bytes of exactly the one instruction that a table word stands for. -/
def tableWordBytes (nbits w : Nat) : List Byte :=
  let padded := tableWordPadded nbits w
  match decode padded with
  | .ok (_, r) => padded.take (padded.length - r.length)
  | .error _ => padded

/-- The instruction the decoder reads from a word of opcode_table.json. -/
def decodeTableWord (nbits w : Nat) : Option Instr :=
  match decodeWhole (tableWordBytes nbits w) with
  | .ok i => some i
  | .error _ => none

end Sys2Proof
end

