-- ==== Sys2Proof/Machine/State.lean ====
section
/-! DEFINITION. The state of the block as plain data: every item of 10_state.md R20 to R35, the tasks' programs (R16),
the parameters (R7, R8), and three fields of the model's own (log 2, log 9). -/

namespace Sys2Proof.Machine

/-- The status codes of 60_exceptions.md R280. -/
inductive Status where
  | ok
  | timeout
  | checksum
  | frameTooLarge
  | badSync
  | driver
  | arg
  | canLen
  | incomplete
  /-- Reserved: no step raises it (R281). -/
  | channelClosed
  | illegalOp
deriving DecidableEq, Repr

/-- The event key of 44_can.md R255. -/
structure EventKey where
  eventId : Byte
  nodeId : Option U16
deriving DecidableEq, Repr

/-- The result records of 30_encoding.md R110. -/
inductive ResultRecord where
  /-- No record: an operation without one, or a failure (R280). -/
  | none
  /-- CSUM (R125). -/
  | csum (c : Byte)
  /-- CSUM_VERIFY (R130). -/
  | valid (v : Bool)
  /-- ENCODE (R140). -/
  | wire (w : List Byte)
  /-- DECODE (R142). -/
  | decoded (frame : Frame) (used : Nat)
  /-- RX_READ and REQUEST_FROM (R117, R178). -/
  | received (frame : Frame) (addressed matched : Bool)
  /-- SEND_REQUEST with ack = 1, on OK (R210). -/
  | response (payload : List Byte) (rsp : Frame) (matched : Bool)
  /-- SEND_REQUEST with ack = 0 on OK, and on every failure, where the payload is a draw (R210, R219). -/
  | payload (p : List Byte)
  /-- CAN_READ (R245). -/
  | canMsg (m : CanMsg)
  /-- CAN_PARSE (R250). -/
  | parsed (generic : GenericFields) (legacy : LegacyFields) (key : EventKey)
  /-- CAN_BUILD (R258). -/
  | canData (d : Bytes8)
deriving DecidableEq, Repr

/-- One completed operation: status and result record (R34). -/
structure Completion where
  status : Status
  result : ResultRecord
deriving DecidableEq, Repr

/-- The wait points of 30_encoding.md R112. -/
inductive Phase where
  | wLock
  | wToken
  | wEnq
  | rLock
  | rRecv
  | cLock
  | cEnq
  | cDeq
deriving DecidableEq, Repr

/-- A frame to be written: the arguments of R116, without length and checksum. -/
structure TxFrame where
  command : Byte
  identifier : U16
  flags : U16
  seq : Byte
  data : List Byte
deriving DecidableEq, Repr

/-- The operation-local values `sub` of R34. It is none from issue on (R169), but for SEND_EVENT, whose message is
prepared at issue, with NODE_ID as it is then (R262, log 20). -/
inductive Sub where
  | none
  | msg (m : CanMsg)
deriving DecidableEq, Repr

/-- cur(t) of R34: the operation in progress with its arguments, phase, remaining timeout, got_token and sub. -/
structure Cur where
  op : Instr
  phase : Phase
  tmo : U32
  gotToken : Bool
  sub : Sub
deriving DecidableEq, Repr

/-- The per-task state of R34, and the task's program (R16) as a list of descriptors (R111, log 5). -/
structure Task where
  prog : List (List Byte)
  tpc : Nat
  cur : Option Cur
  results : List Completion
deriving DecidableEq, Repr

/-- One step of some agent (R6, R168), as the schedule lists it: a task's, or an environment agent's with its input.
A model's own type (log 2). -/
inductive Turn where
  /-- Task(t) takes its step. -/
  | task (t : Nat)
  /-- An environment agent takes the step that the bytes spell: an event of R113, or the first
  wire_rx_byte of a frame, whose other bytes follow in the next turns (log 8). -/
  | env (bytes : List Byte)
deriving DecidableEq, Repr

/-- The state of the machine. -/
structure State where
  /-- The parameters of R7 and R8; no step writes them (R62). -/
  cfg : Config
  /-- NODE_ID (R20). -/
  nodeId : U16
  /-- TX_SEQ (R21). -/
  txSeq : Byte
  /-- TX_LOCK (R22). -/
  txLock : Option Nat
  /-- RX_LOCK (R23). -/
  rxLock : Option Nat
  /-- ACK_PENDING (R24). -/
  ackPending : Bool
  /-- EXP_SEQ (R25). -/
  expSeq : Byte
  /-- EXP_ID (R25). -/
  expId : U16
  /-- RX_FIFO (R26), head first. -/
  rxFifo : List Byte
  /-- RX_ERR_PENDING (R27). -/
  rxErrPending : Bool
  /-- RX_BUF (R28); RX_COUNT is its length (log 12). -/
  rxBuf : List Byte
  /-- TXQ (R29), head first. -/
  txq : List Byte
  /-- CAN_LOCK (R30). -/
  canLock : Option Nat
  /-- CAN_RXQ (R31), head first. -/
  canRxq : List CanMsg
  /-- CAN_TXQ (R32), head first. -/
  canTxq : List CanMsg
  /-- CAN_RX_DROPS (R33). -/
  canRxDrops : U32
  /-- The tasks 0 to N_TASKS-1 (R34, R291). -/
  tasks : List Task
  /-- WIRE_OUT (R35). -/
  wireOut : List Byte
  /-- CAN_OUT (R35). -/
  canOut : List CanMsg
  /-- The model's own: the task whose turn is running (log 2). -/
  active : Nat
  /-- The model's own: the agents' steps to come (log 2). -/
  turns : List Turn
  /-- The model's own: how many free payloads have been drawn (log 9). -/
  draws : Nat
deriving DecidableEq, Repr

/-- There is no fault: the block has no trap, and a failure is the status of its operation (R283, R286; log 14). The
type has no constructor, so no step answers a fault. Safe: a status is a next state. -/
inductive Fault where
deriving DecidableEq, Repr

/-- Why a step has no meaning. -/
inductive Refusal where
  /-- Raised by exec's arm of an instruction that has no meaning yet; none is left. Safe: the machine stops. -/
  | notModelled (mnemonic : String)
  /-- Raised by the fetch when the bytes of a program or schedule entry spell nothing (R115: such arguments cannot be
  spelled; log 6). Safe: the machine stops. -/
  | unspelled (why : DecodeError)
deriving DecidableEq, Repr

/-- A task after reset: tpc 0, no current operation, no results (R34), and a program. -/
def idleTask (prog : List (List Byte)) : Task := { prog := prog, tpc := 0, cur := none, results := [] }

/-- Power-on (70_reset_and_hazards.md R311) under parameters c: every item at its reset value (R20 to R34), WIRE_OUT
and CAN_OUT empty, no program loaded and no step scheduled (log 10). -/
def State.powerOn (c : Config) : State where
  cfg := c
  nodeId := c.undefinedId
  txSeq := 0
  txLock := none
  rxLock := none
  ackPending := false
  expSeq := 0
  expId := 0
  rxFifo := []
  rxErrPending := false
  rxBuf := []
  txq := []
  canLock := none
  canRxq := []
  canTxq := []
  canRxDrops := 0
  tasks := List.replicate c.nTasks (idleTask [])
  wireOut := []
  canOut := []
  active := 0
  turns := []
  draws := 0

/-- The machine right after reset, with the parameters' values of log 1. -/
def State.reset : State := State.powerOn {}

end Sys2Proof.Machine
end

