-- ==== Sys2Proof/Machine/Operands.lean ====
section
/-! DEFINITION. Operand forms: byte order (00_scope.md R10, 20_memory.md R61), the XOR fold, the infinite timeout (R9),
the zeroing of CAN bytes beyond len (R241), the command codes (R91 to R103) and the status numbers (R280, R281). -/

namespace Sys2Proof.Machine

/-- TMO_INF of R9: a timeout that never expires. -/
def tmoInf : U32 := 0xFFFFFFFF

/-- wr16 of R10. -/
def wr16 (o : WireOrder) (v : U16) : List Byte :=
  match o with
  | .le => [v.extractLsb' 0 8, v.extractLsb' 8 8]
  | .be => [v.extractLsb' 8 8, v.extractLsb' 0 8]

/-- rd16 of R10: the first byte is the low one under LE. -/
def rd16 (o : WireOrder) (b0 b1 : Byte) : U16 :=
  match o with
  | .le => b1 ++ b0
  | .be => b0 ++ b1

/-- wr32 of R10. -/
def wr32 (o : WireOrder) (v : U32) : List Byte :=
  match o with
  | .le => [v.extractLsb' 0 8, v.extractLsb' 8 8, v.extractLsb' 16 8, v.extractLsb' 24 8]
  | .be => [v.extractLsb' 24 8, v.extractLsb' 16 8, v.extractLsb' 8 8, v.extractLsb' 0 8]

/-- rd32 of R10. -/
def rd32 (o : WireOrder) (b0 b1 b2 b3 : Byte) : U32 :=
  match o with
  | .le => b3 ++ b2 ++ b1 ++ b0
  | .be => b0 ++ b1 ++ b2 ++ b3

/-- xorfold of R10. -/
def xorfold (s : Byte) (bs : List Byte) : Byte := bs.foldl (· ^^^ ·) s

/-- The length operand L = |data| as the u16 it is emitted as (R116, R140). -/
def lengthOf (data : List Byte) : U16 := BitVec.ofNat 16 data.length

/-- The eight bytes as a sequence, byte 0 first. -/
def bytes8List (d : Bytes8) : List Byte := [d.b0, d.b1, d.b2, d.b3, d.b4, d.b5, d.b6, d.b7]

/-- Byte i of a CAN message as it is sent: 0 at and beyond len (R241). -/
def sentByte (len : BitVec 4) (i : Nat) (b : Byte) : Byte := if i < len.toNat then b else 0

/-- data' of R241: the data bytes with those at or beyond len set to 0. -/
def zeroBeyond (len : BitVec 4) (d : Bytes8) : Bytes8 :=
  { b0 := sentByte len 0 d.b0, b1 := sentByte len 1 d.b1, b2 := sentByte len 2 d.b2, b3 := sentByte len 3 d.b3,
    b4 := sentByte len 4 d.b4, b5 := sentByte len 5 d.b5, b6 := sentByte len 6 d.b6, b7 := sentByte len 7 d.b7 }

/-- A CAN identifier of CAN_ID_BITS bits (R109, R115). -/
def canIdInRange (c : Config) (id : U32) : Bool := decide (id.toNat < 2 ^ c.canIdBits.width)

/-- The messages the CAN bus can deliver (R265): len at most 8, the id in range, no data at or beyond len. -/
def canDeliverable (c : Config) (m : CanMsg) : Bool :=
  decide (m.len.toNat ≤ c.canFrameBytes) && canIdInRange c m.id && (zeroBeyond m.len m.data == m.data)

/-- The command codes of R91 to R103. -/
def commandNop : Byte := 0x00
def commandRestart : Byte := 0x01
def commandPing : Byte := 0x02
def commandLedCtrl : Byte := 0x03
def commandDiscover : Byte := 0x04
def commandGetBoardInfo : Byte := 0x05
def commandRequest : Byte := 0x06
def commandEvent : Byte := 0x07
def commandFlashLoaderBegin : Byte := 0x08
def commandFlashLoaderWrite : Byte := 0x09
def commandFlashLoaderCheck : Byte := 0x0A
def commandFlashLoaderEnd : Byte := 0x0B
def commandReadRegister : Byte := 0x0C

/-- The number of a status code (R280). -/
def statusCode : Status → Nat
  | .ok => 0
  | .timeout => 1
  | .checksum => 2
  | .frameTooLarge => 3
  | .badSync => 4
  | .driver => 5
  | .arg => 6
  | .canLen => 7
  | .incomplete => 8
  | .channelClosed => 9
  | .illegalOp => 10

/-- The value the host software sees (R281): 0 for OK, -1 for every other status. -/
def hostReturn (st : Status) : Int := if st = .ok then 0 else -1

end Sys2Proof.Machine
end

