-- ==== Sys2Proof/Machine/Flags.lean ====
section
/-! DEFINITION. The flags field of a serial frame (30_encoding.md R84), what is computed from it (42 R171, 43 R211,
R220), and the two classifications of a received frame (41 R155, 43 R216). -/

namespace Sys2Proof.Machine

/-- f.broadcast = f.flags[0] (R12, R84). -/
def flagBroadcast (flags : U16) : Bool := flags.getLsbD 0

/-- f.direction = f.flags[1]: 1 is a request, 0 a response. -/
def flagDirection (flags : U16) : Bool := flags.getLsbD 1

/-- f.ack = f.flags[2]: a response is expected. -/
def flagAck (flags : U16) : Bool := flags.getLsbD 2

/-- f.status = f.flags[3]: the error field carries an error. -/
def flagStatus (flags : U16) : Bool := flags.getLsbD 3

/-- f.error = f.flags[11:4]. -/
def flagError (flags : U16) : Byte := flags.extractLsb' 4 8

/-- The reserved bits flags[15:12] (R90): carried through unchanged. -/
def flagReserved (flags : U16) : BitVec 4 := flags.extractLsb' 12 4

/-- needs_token of R171: a request that asks for a response. -/
def needsToken (flags : U16) : Bool := flagDirection flags && flagAck flags

/-- The flags of SEND_REQUEST's frame (R211). -/
def requestFlags (c : Config) (node : U16) (ack : Bool) : U16 :=
  (if node = c.broadcastId then 0x0001#16 else 0x0000#16) ||| (0x0001#16 <<< 1) |||
    ((if ack then 0x0001#16 else 0x0000#16) <<< 2)

/-- The flags of RESPOND's frame (R220): broadcast, ack and reserved are kept, direction, status and error cleared;
an error sets status and the error field. -/
def responseFlags (flags : U16) (err : Option Byte) : U16 :=
  (flags &&& 0xF005#16) |||
    (match err with
     | none => 0x0000#16
     | some e => (0x0001#16 <<< 3) ||| (e.setWidth 16 <<< 4))

/-- addressed of R155: NODE_ID is read when the frame completes. -/
def addressed (s : State) (f : Frame) : Bool :=
  (s.nodeId != s.cfg.undefinedId && f.identifier == s.nodeId) || f.identifier == s.cfg.broadcastId
    || flagBroadcast f.flags

/-- matched of R216. -/
def matched (s : State) (f : Frame) : Bool :=
  s.ackPending && !flagDirection f.flags && f.seq == s.expSeq
    && (s.expId == s.cfg.broadcastId || f.identifier == s.expId)

end Sys2Proof.Machine
end

