-- ==== Sys2Proof/Machine/Ops.lean ====
section
/-! DEFINITION. The named operations over the state that the meanings share: completion (00_scope.md R11), the locks
and the ack token (20_memory.md R75, R76), the flush (41 R150), the queues, and which steps are enabled (42 R190). A
failure is no trap (60_exceptions.md R286): it is a completion with a status other than OK, through `complete`. -/

namespace Sys2Proof.Machine

/-- What a meaning answers. -/
abbrev Out := Host.Outcome State Fault Refusal

/-! ## Tasks -/

/-- RX_COUNT of R28 (log 12). -/
def State.rxCount (s : State) : Nat := s.rxBuf.length

/-- The task whose turn is running. -/
def State.activeTask (s : State) : Option Task := s.tasks[s.active]?

/-- cur(t) of task t: none too where there is no such task. -/
def State.curOf (s : State) (t : Nat) : Option Cur := (s.tasks[t]?).bind Task.cur

/-- Change the active task's record. -/
def State.updateActive (s : State) (f : Task → Task) : State := { s with tasks := s.tasks.modify s.active f }

/-- Write cur of the active task. -/
def State.setCur (s : State) (c : Cur) : State := s.updateActive fun tk => { tk with cur := some c }

/-- complete(st, res) of R11: end the active task's operation with a status and a result record, and advance its
program index by 1 (R34). -/
def State.complete (s : State) (st : Status) (r : ResultRecord) : State :=
  s.updateActive fun tk => { tk with tpc := tk.tpc + 1, cur := none, results := tk.results ++ [⟨st, r⟩] }

/-- A failure with a free payload, as a failed SEND_REQUEST completes (R219): one draw is used up. -/
def State.completeDraw (s : State) (st : Status) : State :=
  State.complete { s with draws := s.draws + 1 } st (.payload (Config.anyPayload s.draws))

/-- The issue of a blocking operation (R169): it becomes current in its first phase with its whole timeout. -/
def State.begin (s : State) (op : Instr) (phase : Phase) (T : U32) (sub : Sub) : State :=
  s.setCur { op := op, phase := phase, tmo := T, gotToken := false, sub := sub }

/-- The issue step of a non-blocking operation (R169): its whole rule runs in the step. The step is enabled when the
task has no current operation; where it is not, nothing happens (log 3). -/
def State.issueNow (s : State) (run : State → State) : State :=
  match s.activeTask with
  | none => s
  | some tk => match tk.cur with
    | none => run s
    | some _ => s

/-! ## Token, flush and queues -/

/-- The flush of R150, one atomic step. -/
def State.flush (s : State) : State := { s with rxFifo := [], rxBuf := [], rxErrPending := false }

/-- token_on_read of R182. -/
def State.tokenOnRead (s : State) (st : Status) (m : Bool) : State :=
  if st ≠ .ok then { s with ackPending := false }
  else if s.cfg.seqStrict = false ∨ m = true then { s with ackPending := false }
  else s

/-- w_token's take (R172): the token, with the request's seq and identifier. -/
def State.takeToken (s : State) (seq : Byte) (identifier : U16) : State :=
  { s with ackPending := true, expSeq := seq, expId := identifier }

/-- wire_rx_byte of R195: a byte that finds RX_FIFO full is lost and leaves a pending error. -/
def State.receiveByte (s : State) (b : Byte) : State :=
  if s.rxFifo.length < s.cfg.rxFifoDepth then { s with rxFifo := s.rxFifo ++ [b] } else { s with rxErrPending := true }

/-- The turn in which SerialRxWire delivers byte b. -/
def wireByteTurn (b : Byte) : Turn := .env (encode (.wireRxByte b))

/-- A run of bytes comes in from the wire, one byte a step (R67, R168): this step is the wire_rx_byte of the first, and
the others are the next turns of the schedule. -/
def State.deliver (s : State) : List Byte → State
  | [] => s
  | b :: rest => { s.receiveByte b with turns := rest.map wireByteTurn ++ s.turns }

/-- can_rx of R265, for a message the bus can deliver: one that finds CAN_RXQ full is dropped and counted. -/
def State.receiveCan (s : State) (m : CanMsg) : State :=
  if s.canRxq.length < s.cfg.canRxqDepth then { s with canRxq := s.canRxq ++ [m] }
  else { s with canRxDrops := s.canRxDrops + 1 }

/-! ## What an operation sends -/

/-- The frame SEND_REQUEST builds (R211); its seq is TX_SEQ, read at the step that uses it (R212). -/
def requestFrame (s : State) (node : U16) (payload : List Byte) (ack : Bool) : TxFrame :=
  { command := commandRequest, identifier := node, flags := requestFlags s.cfg node ack, seq := s.txSeq,
    data := payload }

/-- The frame RESPOND builds (R220). -/
def responseFrame (req : Frame) (payload : List Byte) (err : Option Byte) : TxFrame :=
  { command := req.command, identifier := req.identifier, flags := responseFlags req.flags err, seq := req.seq,
    data := payload }

/-- The frame that the write machine runs on (R170, R185, R211, R220): a write's arguments give it, and TX_SEQ for
SEND_REQUEST (R212), so no part of it stands in sub (R169). The other operations write none. -/
def writtenFrame (s : State) : Instr → Option TxFrame
  | .txWrite command identifier flags seq data _ => some ⟨command, identifier, flags, seq, data⟩
  | .requestFrom command identifier flags seq data _ => some ⟨command, identifier, flags, seq, data⟩
  | .sendRequest node payload ack _ => some (requestFrame s node payload ack)
  | .respond req payload err _ => some (responseFrame req payload err)
  | _ => none

/-- The message that a CAN operation queues: CAN_WRITE's arguments (R241), or what SEND_EVENT prepared (R262). -/
def sentMsg (c : Cur) : Option CanMsg :=
  match c.op with
  | .canWrite data id len _ => some ⟨id, len, data⟩
  | .sendEvent _ _ _ => match c.sub with
    | .msg m => some m
    | .none => none
  | _ => none

/-! ## Which steps are enabled -/

/-- Whether TXQ has room for a frame with this payload (R174: TXQ_CAP - TXQ.len >= HDR_LEN + |data|). -/
def txRoom (s : State) (data : List Byte) : Bool := decide (s.cfg.hdrLen + data.length ≤ s.cfg.txqCap - s.txq.length)

/-- Whether the current operation's progress step is enabled, by its phase (R112, R172, R174 to R176, R240 to R245). -/
def progressEnabled (s : State) (c : Cur) : Bool :=
  match c.phase with
  | .wLock => s.txLock.isNone
  | .wToken => !s.ackPending
  | .wEnq => match writtenFrame s c.op with
    | some f => txRoom s f.data
    | none => false
  | .rLock => s.rxLock.isNone
  | .rRecv => s.rxErrPending || !s.rxFifo.isEmpty
  | .cLock => s.canLock.isNone
  | .cEnq => decide (s.canTxq.length < s.cfg.canTxqDepth)
  | .cDeq => !s.canRxq.isEmpty

/-- Whether an operation is due to time out: tmo = 0 and no progress step enabled (R190, R192). -/
def expireDue (s : State) (c : Cur) : Bool := c.tmo == 0 && !progressEnabled s c

/-- Whether some task's expire step is enabled; a tick waits for it (R198). -/
def anyExpireDue (s : State) : Bool :=
  s.tasks.any fun tk => match tk.cur with
    | none => false
    | some c => expireDue s c

/-- A turn of the active task on a blocking operation (R168, R169, R190; log 4): the issue step when it has no current
operation; otherwise, when op is its current operation, the progress step if one is enabled, else the expire step if
tmo is 0, else nothing (log 3). -/
def State.blockingTurn (s : State) (op : Instr) (issue : State → State) (progress expire : State → Cur → State) :
    State :=
  match s.activeTask with
  | none => s
  | some tk => match tk.cur with
    | none => issue s
    | some c =>
      if c.op = op then
        if progressEnabled s c then progress s c
        else if c.tmo = 0 then expire s c
        else s
      else s

/-! ## Reset -/

/-- The reset of R310: every item of R20 to R34 at its reset value, each task at tpc 0 with no operation and no
results; WIRE_OUT and CAN_OUT are kept. The programs, the parameters and the schedule are no items of R20 to R34 and
stay (log 11). -/
def State.resetBlock (s : State) : State :=
  { s with
    nodeId := s.cfg.undefinedId, txSeq := 0, txLock := none, rxLock := none, ackPending := false, expSeq := 0,
    expId := 0, rxFifo := [], rxErrPending := false, rxBuf := [], txq := [], canLock := none, canRxq := [],
    canTxq := [], canRxDrops := 0, tasks := s.tasks.map fun tk => idleTask tk.prog }

end Sys2Proof.Machine
end

