-- ==== Sys2Proof/Machine/Checksum.lean ====
section
/-! DEFINITION. 40_checksum.md: the checksum function and its validator, CSUM and CSUM_VERIFY. -/

namespace Sys2Proof.Machine

/-- csum of R120, with SEED; it folds wire bytes 1 to 8 and the payload. -/
def csum (c : Config) (command : Byte) (identifier flags length : U16) (seq : Byte) (data : List Byte) : Byte :=
  xorfold c.seed
    ([command] ++ wr16 c.wireOrder identifier ++ wr16 c.wireOrder flags ++ wr16 c.wireOrder length ++ [seq] ++ data)

/-- csum_ok of R122 on a complete frame's bytes: bytes 1 to 8 and 10 on against byte 9. -/
def csumOk (c : Config) (b : List Byte) : Bool := xorfold c.seed ((b.drop 1).take 8 ++ b.drop 10) == b.getD 9 0

/-- The length field of a frame's bytes (R82). -/
def lengthField (c : Config) (b : List Byte) : Nat := (rd16 c.wireOrder (b.getD 6 0) (b.getD 7 0)).toNat

/-- CSUM's result (R125). -/
def csumResult (c : Config) (command : Byte) (identifier flags : U16) (seq : Byte) (data : List Byte) : Completion :=
  if data.length > c.maxPayload then ⟨.frameTooLarge, .none⟩
  else ⟨.ok, .csum (csum c command identifier flags (lengthOf data) seq data)⟩

/-- CSUM_VERIFY's result (R130), its checks in their order; a failing checksum is no failure of the operation. -/
def csumVerifyResult (c : Config) (buf : List Byte) : Completion :=
  if buf.length < c.hdrLen then ⟨.incomplete, .none⟩
  else if lengthField c buf > c.maxPayload then ⟨.frameTooLarge, .none⟩
  else if buf.length < c.hdrLen + lengthField c buf then ⟨.incomplete, .none⟩
  else if buf.length > c.hdrLen + lengthField c buf then ⟨.arg, .none⟩
  else ⟨.ok, .valid (csumOk c buf)⟩

/-- Complete the active task's operation with a computed status and record. -/
def State.completeWith (s : State) (r : Completion) : State := s.complete r.status r.result

/-- CSUM (R125). -/
def execCsum (command : Byte) (identifier flags : U16) (seq : Byte) (data : List Byte) (s : State) : Out :=
  .next (s.issueNow fun s => s.completeWith (csumResult s.cfg command identifier flags seq data))

/-- CSUM_VERIFY (R130). -/
def execCsumVerify (buf : List Byte) (s : State) : Out :=
  .next (s.issueNow fun s => s.completeWith (csumVerifyResult s.cfg buf))

end Sys2Proof.Machine
end

