-- ==== Sys2Proof/Machine/Codec.lean ====
section
/-! DEFINITION. 41_frame_codec.md: the serial frame encoder and decoder, ENCODE and DECODE. -/

namespace Sys2Proof.Machine

/-- The wire bytes of a frame (R83, R140): header, checksum and payload. -/
def frameBytes (c : Config) (command : Byte) (identifier flags : U16) (seq : Byte) (data : List Byte) : List Byte :=
  [c.sync, command] ++ wr16 c.wireOrder identifier ++ wr16 c.wireOrder flags ++ wr16 c.wireOrder (lengthOf data)
    ++ [seq, csum c command identifier flags (lengthOf data) seq data] ++ data

/-- enc of R140: a payload over MAX_PAYLOAD fails, and nothing is produced. -/
def enc (c : Config) (command : Byte) (identifier flags : U16) (seq : Byte) (data : List Byte) :
    Except Status (List Byte) :=
  if data.length > c.maxPayload then .error .frameTooLarge else .ok (frameBytes c command identifier flags seq data)

/-- frameOf of R145. -/
def frameOf (c : Config) (b : List Byte) : Frame :=
  { command := b.getD 1 0, identifier := rd16 c.wireOrder (b.getD 2 0) (b.getD 3 0),
    flags := rd16 c.wireOrder (b.getD 4 0) (b.getD 5 0), length := rd16 c.wireOrder (b.getD 6 0) (b.getD 7 0),
    seq := b.getD 8 0, checksum := b.getD 9 0, data := b.drop 10 }

/-- What the decoder step gives (R145). -/
inductive DStep where
  | more (buf : List Byte)
  | done (f : Frame)
  | fail (st : Status)
deriving DecidableEq, Repr

/-- dstep of R145. Its state (n, B) is B alone, n being |B| (R28, log 12). -/
def dstep (c : Config) (buf : List Byte) (b : Byte) : DStep :=
  if buf.length = 0 then
    if b ≠ c.sync then .fail .badSync else .more [b]
  else
    let buf' := buf ++ [b]
    let n' := buf.length + 1
    if n' < c.hdrLen then .more buf'
    else if n' = c.hdrLen ∧ lengthField c buf' > c.maxPayload then .fail .frameTooLarge
    else if n' < c.hdrLen + lengthField c buf' then .more buf'
    else if csumOk c buf' then .done (frameOf c buf')
    else .fail .checksum

/-- DECODE's loop (R142): buf is the decoder's state, used the number of bytes taken. -/
def decodeLoop (c : Config) (buf : List Byte) (used : Nat) : List Byte → Completion
  | [] => ⟨.incomplete, .none⟩
  | b :: rest => match dstep c buf b with
    | .more buf' => decodeLoop c buf' (used + 1) rest
    | .done f => ⟨.ok, .decoded f (used + 1)⟩
    | .fail e => ⟨e, .none⟩

/-- DECODE's result (R142). -/
def decodeResult (c : Config) (buf : List Byte) : Completion := decodeLoop c [] 0 buf

/-- ENCODE's result (R140). -/
def encodeResult (c : Config) (command : Byte) (identifier flags : U16) (seq : Byte) (data : List Byte) : Completion :=
  match enc c command identifier flags seq data with
  | .error e => ⟨e, .none⟩
  | .ok w => ⟨.ok, .wire w⟩

/-- ENCODE (R140). -/
def execEncodeFrame (command : Byte) (identifier flags : U16) (seq : Byte) (data : List Byte) (s : State) : Out :=
  .next (s.issueNow fun s => s.completeWith (encodeResult s.cfg command identifier flags seq data))

/-- DECODE (R142). -/
def execDecodeFrame (buf : List Byte) (s : State) : Out :=
  .next (s.issueNow fun s => s.completeWith (decodeResult s.cfg buf))

end Sys2Proof.Machine
end

