-- ==== Sys2Proof/Machine/Arbiter.lean ====
section
/-! DEFINITION. 42_serial_arbiter.md: the write machine (R171 to R174), the read machine (R175 to R182) and the expiry
of both (R173, R191), with TX_WRITE, RX_READ and REQUEST_FROM. What differs between the operations is passed in:
what follows the enqueue, how a read that succeeds completes, and how a failure does. -/

namespace Sys2Proof.Machine

/-- w_lock of R172. -/
def State.wLock (s : State) (c : Cur) (f : TxFrame) : State :=
  State.setCur { s with txLock := some s.active }
    { c with phase := if needsToken f.flags then .wToken else .wEnq }

/-- w_token of R172. -/
def State.wToken (s : State) (c : Cur) (f : TxFrame) : State :=
  State.setCur (s.takeToken f.seq f.identifier) { c with gotToken := true, phase := .wEnq }

/-- w_enq of R174 up to "then, by operation": the whole frame is pushed onto TXQ in one step and TX_LOCK given back.
got_token becomes false as the operation goes on to its read half or completes. -/
def State.wEnq (s : State) (f : TxFrame) : State :=
  { s with txq := s.txq ++ frameBytes s.cfg f.command f.identifier f.flags f.seq f.data, txLock := none }

/-- The entry to a read half (R174, R185): phase R_LOCK with a fresh timeout. -/
def State.readHalf (s : State) (c : Cur) (T : U32) : State :=
  s.setCur { c with phase := .rLock, tmo := T, gotToken := false }

/-- The progress steps of a write (R172, R174); in another phase there is no step. -/
def writeProgress (enqueued : State → Cur → State) (s : State) (c : Cur) : State :=
  match writtenFrame s c.op with
  | none => s
  | some f => match c.phase with
    | .wLock => s.wLock c f
    | .wToken => s.wToken c f
    | .wEnq => enqueued (s.wEnq f) c
    | .rLock => s
    | .rRecv => s
    | .cLock => s
    | .cEnq => s
    | .cDeq => s

/-- rfail of R176. -/
def State.rFail (s : State) (fail : State → Status → State) (e : Status) : State :=
  fail (State.tokenOnRead { s.flush with rxLock := none } e false) e

/-- rsucceed of R176, for a frame that has completed. Under SEQ_STRICT a correlated read skips a frame that does not
match (R217). -/
def State.rSucceed (s : State) (correlated : Bool) (succeed : State → Frame → Bool → Bool → State) (f : Frame) :
    State :=
  let m := matched s f
  if correlated = true ∧ s.cfg.seqStrict = true ∧ m = false then s
  else succeed { s.tokenOnRead .ok m with rxLock := none } f (addressed s f) m

/-- r_recv of R176: a pending driver error first (R177), else one byte of RX_FIFO through the decoder. -/
def State.rRecv (s : State) (correlated : Bool) (succeed : State → Frame → Bool → Bool → State)
    (fail : State → Status → State) : State :=
  if s.rxErrPending then s.rFail fail .driver
  else match s.rxFifo with
    | [] => s
    | b :: rest => match dstep s.cfg s.rxBuf b with
      | .more buf => { s with rxFifo := rest, rxBuf := buf }
      | .done f => State.rSucceed { s with rxFifo := rest, rxBuf := [] } correlated succeed f
      | .fail e => State.rFail { s with rxFifo := rest } fail e

/-- The progress steps of a read (R175, R176). -/
def readProgress (correlated : Bool) (succeed : State → Frame → Bool → Bool → State) (fail : State → Status → State)
    (s : State) (c : Cur) : State :=
  match c.phase with
  | .rLock => State.setCur { s with rxLock := some s.active } { c with phase := .rRecv }
  | .rRecv => s.rRecv correlated succeed fail
  | .wLock => s
  | .wToken => s
  | .wEnq => s
  | .cLock => s
  | .cEnq => s
  | .cDeq => s

/-- The progress steps of an operation with a write half and a read half: each does nothing in the other's phases. -/
def requestProgress (enqueued : State → Cur → State) (succeed : State → Frame → Bool → Bool → State) (fail : State → Status → State)
    (s : State) (c : Cur) : State :=
  match c.phase with
  | .wLock => writeProgress enqueued s c
  | .wToken => writeProgress enqueued s c
  | .wEnq => writeProgress enqueued s c
  | .rLock => readProgress true succeed fail s c
  | .rRecv => readProgress true succeed fail s c
  | .cLock => s
  | .cEnq => s
  | .cDeq => s

/-- The expire step of a serial operation, by phase (R173, R191). -/
def serialExpire (fail : State → Status → State) (s : State) (c : Cur) : State :=
  match c.phase with
  | .wLock => fail s .timeout
  | .wToken => fail { s with txLock := none } .timeout
  | .wEnq =>
    fail { s with txLock := none, ackPending := if c.gotToken then false else s.ackPending } .timeout
  | .rLock => fail (s.tokenOnRead .timeout false) .timeout
  | .rRecv => s.rFail fail .timeout
  | .cLock => s
  | .cEnq => s
  | .cDeq => s

/-- A failure without a result record (R280). -/
def failPlain (s : State) (e : Status) : State := s.complete e .none

/-- The record of a read that succeeds (R178). -/
def succeedReceived (s : State) (f : Frame) (a m : Bool) : State := s.complete .ok (.received f a m)

/-- TX_WRITE and RESPOND complete at the enqueue (R174). -/
def enqueuedDone (s : State) (_ : Cur) : State := s.complete .ok .none

/-- The issue of an operation that writes a payload: an oversize one is rejected before any lock (R170). -/
def issueWrite (op : Instr) (data : List Byte) (T : U32) (s : State) : State :=
  if data.length > s.cfg.maxPayload then failPlain s .frameTooLarge else s.begin op .wLock T .none

/-- TX_WRITE (R170). -/
def execTxWrite (command : Byte) (identifier flags : U16) (seq : Byte) (data : List Byte) (T : U32) (s : State) :
    Out :=
  .next (s.blockingTurn (.txWrite command identifier flags seq data T)
    (issueWrite (.txWrite command identifier flags seq data T) data T)
    (writeProgress enqueuedDone) (serialExpire failPlain))

/-- RX_READ (R175). -/
def execRxRead (T : U32) (s : State) : Out :=
  .next (s.blockingTurn (.rxRead T) (fun s => s.begin (.rxRead T) .rLock T .none)
    (readProgress false succeedReceived failPlain) (serialExpire failPlain))

/-- REQUEST_FROM (R185). -/
def execRequestFrom (command : Byte) (identifier flags : U16) (seq : Byte) (data : List Byte) (T : U32) (s : State) :
    Out :=
  .next (s.blockingTurn (.requestFrom command identifier flags seq data T)
    (issueWrite (.requestFrom command identifier flags seq data T) data T)
    (requestProgress (fun s c => s.readHalf c T) succeedReceived failPlain) (serialExpire failPlain))

end Sys2Proof.Machine
end

