-- ==== Sys2Proof/Machine/Request.lean ====
section
/-! DEFINITION. 43_request_response.md: SEND_REQUEST, RESPOND and SET_NODE_ID. -/

namespace Sys2Proof.Machine

/-- SEND_REQUEST after its enqueue (R174, R210, R212): TX_SEQ advances modulo 256; with ack the read half follows, and
without it the operation completes with the payload unchanged. -/
def requestEnqueued (payload : List Byte) (ack : Bool) (T : U32) (s : State) (c : Cur) : State :=
  if ack then State.readHalf { s with txSeq := s.txSeq + 1 } c T
  else State.complete { s with txSeq := s.txSeq + 1 } .ok (.payload payload)

/-- SEND_REQUEST's record when its read succeeds (R210): the response's payload replaces the caller's whole. -/
def succeedResponse (s : State) (f : Frame) (_ m : Bool) : State := s.complete .ok (.response f.data f m)

/-- SEND_REQUEST's issue (R210): an oversize payload fails at once, with a drawn payload (R219). -/
def issueRequest (op : Instr) (payload : List Byte) (T : U32) (s : State) : State :=
  if payload.length > s.cfg.maxPayload then s.completeDraw .frameTooLarge
  else s.begin op .wLock T .none

/-- SEND_REQUEST (R210). -/
def execSendRequest (node : U16) (payload : List Byte) (ack : Bool) (T : U32) (s : State) : Out :=
  .next (s.blockingTurn (.sendRequest node payload ack T)
    (issueRequest (.sendRequest node payload ack T) payload T)
    (requestProgress (requestEnqueued payload ack T) succeedResponse State.completeDraw)
    (serialExpire State.completeDraw))

/-- RESPOND's issue (R220, R284): a request without ack gets no response and completes OK before the size check. -/
def issueRespond (op : Instr) (req : Frame) (payload : List Byte) (T : U32) (s : State) : State :=
  if flagAck req.flags = false then s.complete .ok .none
  else issueWrite op payload T s

/-- RESPOND (R220). -/
def execRespond (req : Frame) (payload : List Byte) (err : Option Byte) (T : U32) (s : State) : Out :=
  .next (s.blockingTurn (.respond req payload err T) (issueRespond (.respond req payload err T) req payload T)
    (writeProgress enqueuedDone) (serialExpire failPlain))

/-- SET_NODE_ID (R225). -/
def execSetNodeId (id : U16) (s : State) : Out :=
  .next (s.issueNow fun s => State.complete { s with nodeId := id } .ok .none)

end Sys2Proof.Machine
end

