-- ==== Sys2Proof/Machine/Can.lean ====
section
/-! DEFINITION. 44_can.md: CAN_WRITE, CAN_READ, CAN_PARSE, CAN_BUILD and SEND_EVENT. -/

namespace Sys2Proof.Machine

/-- c_enq of R241: the message is queued with its bytes at or beyond len set to 0. -/
def State.cEnq (s : State) (m : CanMsg) : State :=
  State.complete { s with canTxq := s.canTxq ++ [{ m with data := zeroBeyond m.len m.data }], canLock := none }
    .ok .none

/-- c_deq of R245: the oldest message is taken. -/
def State.cDeq (s : State) : State :=
  match s.canRxq with
  | [] => s
  | m :: rest => State.complete { s with canRxq := rest, canLock := none } .ok (.canMsg m)

/-- c_lock of R240: CAN_LOCK is taken and the operation goes on in the given phase. -/
def State.cLock (s : State) (c : Cur) (next : Phase) : State :=
  State.setCur { s with canLock := some s.active } { c with phase := next }

/-- The progress steps of CAN_WRITE and SEND_EVENT (R240, R241). -/
def canWriteProgress (s : State) (c : Cur) : State :=
  match c.phase with
  | .cLock => s.cLock c .cEnq
  | .cEnq => match sentMsg c with
    | some m => s.cEnq m
    | none => s
  | .cDeq => s
  | .wLock => s
  | .wToken => s
  | .wEnq => s
  | .rLock => s
  | .rRecv => s

/-- The progress steps of CAN_READ (R245). -/
def canReadProgress (s : State) (c : Cur) : State :=
  match c.phase with
  | .cLock => s.cLock c .cDeq
  | .cDeq => s.cDeq
  | .cEnq => s
  | .wLock => s
  | .wToken => s
  | .wEnq => s
  | .rLock => s
  | .rRecv => s

/-- The expire step of a CAN operation (R247). -/
def canExpire (s : State) (c : Cur) : State :=
  match c.phase with
  | .cLock => failPlain s .timeout
  | .cEnq => failPlain { s with canLock := none } .timeout
  | .cDeq => failPlain { s with canLock := none } .timeout
  | .wLock => s
  | .wToken => s
  | .wEnq => s
  | .rLock => s
  | .rRecv => s

/-- CAN_WRITE's issue (R240, R284): the length check first, then the identifier's. -/
def issueCanWrite (op : Instr) (id : U32) (len : BitVec 4) (T : U32) (s : State) : State :=
  if len.toNat > s.cfg.canFrameBytes then failPlain s .arg
  else if canIdInRange s.cfg id = false then failPlain s .arg
  else s.begin op .cLock T .none

/-- CAN_WRITE (R240). -/
def execCanWrite (data : Bytes8) (id : U32) (len : BitVec 4) (T : U32) (s : State) : Out :=
  .next (s.blockingTurn (.canWrite data id len T) (issueCanWrite (.canWrite data id len T) id len T)
    canWriteProgress canExpire)

/-- CAN_READ (R245). -/
def execCanRead (T : U32) (s : State) : Out :=
  .next (s.blockingTurn (.canRead T) (fun s => s.begin (.canRead T) .cLock T .none) canReadProgress canExpire)

/-- The GENERIC view of eight data bytes (R106). -/
def genericView (d : Bytes8) : GenericFields := ⟨d.b0, [d.b1, d.b2, d.b3, d.b4, d.b5, d.b6, d.b7]⟩

/-- The LEGACY view of eight data bytes (R107). -/
def legacyView (c : Config) (d : Bytes8) : LegacyFields :=
  ⟨d.b0, d.b1, rd16 c.wireOrder d.b2 d.b3, rd32 c.wireOrder d.b4 d.b5 d.b6 d.b7⟩

/-- The event key of R255; an identifier of 2^16 or more is no node's (R256). -/
def eventKey (c : Config) (m : CanMsg) : EventKey :=
  { eventId := match c.canLayout with
      | .generic => m.data.b0
      | .legacy => m.data.b1
    nodeId := if m.id.toNat < 2 ^ 16 then some (m.id.setWidth 16) else none }

/-- CAN_PARSE's result (R250): both views whatever CAN_LAYOUT is. -/
def canParseResult (c : Config) (m : CanMsg) : Completion :=
  if m.len.toNat ≠ c.canFrameBytes then ⟨.canLen, .none⟩
  else ⟨.ok, .parsed (genericView m.data) (legacyView c m.data) (eventKey c m)⟩

/-- CAN_PARSE (R250). -/
def execCanParse (msg : CanMsg) (s : State) : Out :=
  .next (s.issueNow fun s => s.completeWith (canParseResult s.cfg msg))

/-- The GENERIC layout of at most seven args, padded with 0 (R258). -/
def buildGeneric (f : GenericFields) : Bytes8 :=
  { b0 := f.cmd, b1 := f.args.getD 0 0, b2 := f.args.getD 1 0, b3 := f.args.getD 2 0, b4 := f.args.getD 3 0,
    b5 := f.args.getD 4 0, b6 := f.args.getD 5 0, b7 := f.args.getD 6 0 }

/-- The LEGACY layout (R258): [command, event] ++ wr16(reserved) ++ wr32(data). -/
def buildLegacy (c : Config) (f : LegacyFields) : Bytes8 :=
  let r := wr16 c.wireOrder f.reserved
  let d := wr32 c.wireOrder f.data
  { b0 := f.command, b1 := f.event, b2 := r.getD 0 0, b3 := r.getD 1 0, b4 := d.getD 0 0, b5 := d.getD 1 0,
    b6 := d.getD 2 0, b7 := d.getD 3 0 }

/-- CAN_BUILD's result (R258); the layout operand overrides CAN_LAYOUT. -/
def canBuildResult (c : Config) : CanFields → Completion
  | .generic f => if f.args.length > 7 then ⟨.arg, .none⟩ else ⟨.ok, .canData (buildGeneric f)⟩
  | .legacy f => ⟨.ok, .canData (buildLegacy c f)⟩

/-- CAN_BUILD (R258). -/
def execCanBuild (fields : CanFields) (s : State) : Out :=
  .next (s.issueNow fun s => s.completeWith (canBuildResult s.cfg fields))

/-- The data bytes of SEND_EVENT's message (R262), or none where the operand does not fit CAN_LAYOUT. -/
def eventBytes (c : Config) (event : Byte) (operand : EventOperand) : Option Bytes8 :=
  match c.canLayout, operand with
  | .generic, .args args => if args.length > 7 then none else some (buildGeneric ⟨event, args⟩)
  | .generic, .data _ => none
  | .legacy, .data word => some (buildLegacy c ⟨commandEvent, event, 0, word⟩)
  | .legacy, .args _ => none

/-- SEND_EVENT's issue (R262, R284): the operand's form first, then NODE_ID's range; NODE_ID is read here, so
the message stands in sub (log 20). -/
def issueSendEvent (op : Instr) (event : Byte) (operand : EventOperand) (T : U32) (s : State) : State :=
  match eventBytes s.cfg event operand with
  | none => failPlain s .arg
  | some d =>
    if canIdInRange s.cfg (s.nodeId.setWidth 32) = false then failPlain s .arg
    else s.begin op .cLock T (.msg ⟨s.nodeId.setWidth 32, BitVec.ofNat 4 s.cfg.canFrameBytes, d⟩)

/-- SEND_EVENT (R262). -/
def execSendEvent (event : Byte) (operand : EventOperand) (T : U32) (s : State) : Out :=
  .next (s.blockingTurn (.sendEvent event operand T) (issueSendEvent (.sendEvent event operand T) event operand T)
    canWriteProgress canExpire)

end Sys2Proof.Machine
end

