-- ==== Sys2Proof/Machine/Environment.lean ====
section
/-! DEFINITION. The environment events of 30_encoding.md R113: the steps of the agents other than Task (42 R195 to
R198, 44 R265 and R266, 70 R310). A step that is not enabled changes nothing (log 3). -/

namespace Sys2Proof.Machine

/-- WIRE_RX_BYTE (R195). -/
def execWireRxByte (b : Byte) (s : State) : Out := .next (s.receiveByte b)

/-- WIRE_RX_ERROR (R196). -/
def execWireRxError (s : State) : Out := .next { s with rxErrPending := true }

/-- wire_tx_byte of R197: enabled when TXQ holds a byte; there is no local echo. -/
def State.emitByte (s : State) : State :=
  match s.txq with
  | [] => s
  | x :: rest => { s with txq := rest, wireOut := s.wireOut ++ [x] }

/-- WIRE_TX_BYTE (R197). -/
def execWireTxByte (s : State) : Out := .next s.emitByte

/-- CAN_RX_MSG (R265); a message outside R265's range is no input. -/
def execCanRxMsg (m : CanMsg) (s : State) : Out :=
  .next (if canDeliverable s.cfg m then s.receiveCan m else s)

/-- can_tx_done of R266: enabled when CAN_TXQ holds a message. -/
def State.finishCanTx (s : State) : State :=
  match s.canTxq with
  | [] => s
  | m :: rest => { s with canTxq := rest, canOut := s.canOut ++ [m] }

/-- CAN_TX_DONE (R266). -/
def execCanTxDone (s : State) : Out := .next s.finishCanTx

/-- A tick's effect on one current operation (R198): a countdown that is neither 0 nor infinite goes down by 1. -/
def tickCur (c : Cur) : Cur := if c.tmo = 0 ∨ c.tmo = tmoInf then c else { c with tmo := c.tmo - 1 }

/-- A tick's effect on one task (R198). -/
def tickTask (tk : Task) : Task := { tk with cur := tk.cur.map tickCur }

/-- TICK (R198): enabled only when no expire step of any task is. -/
def execTick (s : State) : Out :=
  .next (if anyExpireDue s then s else { s with tasks := s.tasks.map tickTask })

/-- RESET (R310). -/
def execReset (s : State) : Out := .next s.resetBlock

end Sys2Proof.Machine
end

