-- ==== Sys2Proof/Machine/Commands.lean ====
section
/-! DEFINITION. The serial command codes of 30_encoding.md R91 to R103. The block gives no command byte a meaning of its
own: it receives, decodes, encodes and sends all of them alike (R104). What a row of the table does to the block is to
arrive: a serial frame (R80) with that command byte comes in from the wire, one byte a step, each by wire_rx_byte (R67,
R168, R195). The row's step takes in the first byte, and the others are the next turns of the schedule (log 8). Its
checksum byte is the one given, right or wrong. -/

namespace Sys2Proof.Machine

/-- The wire bytes of a frame whose every field is given (R83). -/
def arrivingBytes (c : Config) (command : Byte) (identifier flags length : U16) (seq checksum : Byte)
    (data : List Byte) : List Byte :=
  [c.sync, command] ++ wr16 c.wireOrder identifier ++ wr16 c.wireOrder flags ++ wr16 c.wireOrder length
    ++ [seq, checksum] ++ data

/-- The first byte of a serial frame with a given command byte arrives, and the others are due (R104, R195). -/
def arrive (command : Byte) (identifier flags length : U16) (seq checksum : Byte) (data : List Byte) (s : State) :
    State :=
  s.deliver (arrivingBytes s.cfg command identifier flags length seq checksum data)

/-- CMD_NOP, 0x00 (R91). -/
def execCmdNop (identifier flags length : U16) (seq checksum : Byte) (data : List Byte) (s : State) : Out :=
  .next (arrive commandNop identifier flags length seq checksum data s)

/-- CMD_RESTART, 0x01 (R92). -/
def execCmdRestart (identifier flags length : U16) (seq checksum : Byte) (data : List Byte) (s : State) : Out :=
  .next (arrive commandRestart identifier flags length seq checksum data s)

/-- CMD_PING, 0x02 (R93). -/
def execCmdPing (identifier flags length : U16) (seq checksum : Byte) (data : List Byte) (s : State) : Out :=
  .next (arrive commandPing identifier flags length seq checksum data s)

/-- CMD_LED_CTRL, 0x03 (R94). -/
def execCmdLedCtrl (identifier flags length : U16) (seq checksum : Byte) (data : List Byte) (s : State) : Out :=
  .next (arrive commandLedCtrl identifier flags length seq checksum data s)

/-- CMD_DISCOVER, 0x04 (R95). -/
def execCmdDiscover (identifier flags length : U16) (seq checksum : Byte) (data : List Byte) (s : State) : Out :=
  .next (arrive commandDiscover identifier flags length seq checksum data s)

/-- CMD_GET_BOARD_INFO, 0x05 (R96). -/
def execCmdGetBoardInfo (identifier flags length : U16) (seq checksum : Byte) (data : List Byte) (s : State) : Out :=
  .next (arrive commandGetBoardInfo identifier flags length seq checksum data s)

/-- CMD_REQUEST, 0x06 (R97). -/
def execCmdRequest (identifier flags length : U16) (seq checksum : Byte) (data : List Byte) (s : State) : Out :=
  .next (arrive commandRequest identifier flags length seq checksum data s)

/-- CMD_EVENT, 0x07 (R98). -/
def execCmdEvent (identifier flags length : U16) (seq checksum : Byte) (data : List Byte) (s : State) : Out :=
  .next (arrive commandEvent identifier flags length seq checksum data s)

/-- CMD_FLASH_LOADER_BEGIN, 0x08 (R99). -/
def execCmdFlashLoaderBegin (identifier flags length : U16) (seq checksum : Byte) (data : List Byte) (s : State) : Out :=
  .next (arrive commandFlashLoaderBegin identifier flags length seq checksum data s)

/-- CMD_FLASH_LOADER_WRITE, 0x09 (R100). -/
def execCmdFlashLoaderWrite (identifier flags length : U16) (seq checksum : Byte) (data : List Byte) (s : State) : Out :=
  .next (arrive commandFlashLoaderWrite identifier flags length seq checksum data s)

/-- CMD_FLASH_LOADER_CHECK, 0x0A (R101). -/
def execCmdFlashLoaderCheck (identifier flags length : U16) (seq checksum : Byte) (data : List Byte) (s : State) : Out :=
  .next (arrive commandFlashLoaderCheck identifier flags length seq checksum data s)

/-- CMD_FLASH_LOADER_END, 0x0B (R102). -/
def execCmdFlashLoaderEnd (identifier flags length : U16) (seq checksum : Byte) (data : List Byte) (s : State) : Out :=
  .next (arrive commandFlashLoaderEnd identifier flags length seq checksum data s)

/-- CMD_READ_REGISTER, 0x0C (R103). -/
def execCmdReadRegister (identifier flags length : U16) (seq checksum : Byte) (data : List Byte) (s : State) : Out :=
  .next (arrive commandReadRegister identifier flags length seq checksum data s)

end Sys2Proof.Machine
end

