-- ==== Sys2Proof/Machine/Dispatch.lean ====
section
/-! DEFINITION. exec: one arm for each constructor of Instr, each one direct call of its meaning. -/

namespace Sys2Proof.Machine

def exec (i : Instr) (s : State) : Host.Outcome State Fault Refusal :=
  match i with
  | .csum c n f q d => Sys2Proof.Machine.execCsum c n f q d s
  | .csumVerify b => Sys2Proof.Machine.execCsumVerify b s
  | .encodeFrame c n f q d => Sys2Proof.Machine.execEncodeFrame c n f q d s
  | .decodeFrame b => Sys2Proof.Machine.execDecodeFrame b s
  | .txWrite c n f q d T => Sys2Proof.Machine.execTxWrite c n f q d T s
  | .rxRead T => Sys2Proof.Machine.execRxRead T s
  | .requestFrom c n f q d T => Sys2Proof.Machine.execRequestFrom c n f q d T s
  | .sendRequest n p a T => Sys2Proof.Machine.execSendRequest n p a T s
  | .respond r p e T => Sys2Proof.Machine.execRespond r p e T s
  | .setNodeId n => Sys2Proof.Machine.execSetNodeId n s
  | .canWrite d n l T => Sys2Proof.Machine.execCanWrite d n l T s
  | .canRead T => Sys2Proof.Machine.execCanRead T s
  | .canParse m => Sys2Proof.Machine.execCanParse m s
  | .canBuild f => Sys2Proof.Machine.execCanBuild f s
  | .sendEvent e a T => Sys2Proof.Machine.execSendEvent e a T s
  | .wireRxByte b => Sys2Proof.Machine.execWireRxByte b s
  | .wireRxError => Sys2Proof.Machine.execWireRxError s
  | .wireTxByte => Sys2Proof.Machine.execWireTxByte s
  | .canRxMsg m => Sys2Proof.Machine.execCanRxMsg m s
  | .canTxDone => Sys2Proof.Machine.execCanTxDone s
  | .tick => Sys2Proof.Machine.execTick s
  | .reset => Sys2Proof.Machine.execReset s
  | .cmdNop n f l q k d => Sys2Proof.Machine.execCmdNop n f l q k d s
  | .cmdRestart n f l q k d => Sys2Proof.Machine.execCmdRestart n f l q k d s
  | .cmdPing n f l q k d => Sys2Proof.Machine.execCmdPing n f l q k d s
  | .cmdLedCtrl n f l q k d => Sys2Proof.Machine.execCmdLedCtrl n f l q k d s
  | .cmdDiscover n f l q k d => Sys2Proof.Machine.execCmdDiscover n f l q k d s
  | .cmdGetBoardInfo n f l q k d => Sys2Proof.Machine.execCmdGetBoardInfo n f l q k d s
  | .cmdRequest n f l q k d => Sys2Proof.Machine.execCmdRequest n f l q k d s
  | .cmdEvent n f l q k d => Sys2Proof.Machine.execCmdEvent n f l q k d s
  | .cmdFlashLoaderBegin n f l q k d => Sys2Proof.Machine.execCmdFlashLoaderBegin n f l q k d s
  | .cmdFlashLoaderWrite n f l q k d => Sys2Proof.Machine.execCmdFlashLoaderWrite n f l q k d s
  | .cmdFlashLoaderCheck n f l q k d => Sys2Proof.Machine.execCmdFlashLoaderCheck n f l q k d s
  | .cmdFlashLoaderEnd n f l q k d => Sys2Proof.Machine.execCmdFlashLoaderEnd n f l q k d s
  | .cmdReadRegister n f l q k d => Sys2Proof.Machine.execCmdReadRegister n f l q k d s

end Sys2Proof.Machine
end

