-- ==== Sys2Proof/Machine/Fetch.lean ====
section
/-! DEFINITION. How a step finds what to run: the head of the schedule says which agent moves (R168, log 2). A task runs
the operation at its program index (R169); an environment agent runs the event, or takes in the frame, that the entry
spells. -/

namespace Sys2Proof.Machine

/-- What the schedule's head asks for, with the state after the turn is taken. -/
inductive Fetched where
  /-- No agent's step is due, or the task has no operation left: nothing runs. -/
  | idle (s : State)
  /-- An instruction to run. -/
  | run (i : Instr) (s : State)
  /-- A task's descriptor has an unassigned code (R114). -/
  | illegal (s : State)
  /-- A frame from the wire whose command byte is unassigned: its bytes arrive like any other frame's (R104). -/
  | raw (bytes : List Byte) (s : State)
  /-- Bytes that spell nothing (log 6). -/
  | refuse (r : Refusal)

/-- A task's turn: the descriptor at its program index, op = prog(t)[tpc(t)] (R169). -/
def fetchTask (s : State) : Fetched :=
  match s.activeTask with
  | none => .idle s
  | some tk => match tk.prog[tk.tpc]? with
    | none => .idle s
    | some d => match decodeOperation d with
      | .ok i => .run i s
      | .error (.unassigned _) => .illegal s
      | .error e => .refuse (.unspelled e)

/-- An environment agent's turn: the event or frame that the schedule entry spells (R113, R80). -/
def fetchEnvironment (d : List Byte) (s : State) : Fetched :=
  match decodeEnvironment d with
  | .ok i => .run i s
  | .error (.unassignedCommand _) => .raw d s
  | .error e => .refuse (.unspelled e)

/-- The next agent's step; the turn is taken off the schedule. -/
def fetch (s : State) : Fetched :=
  match s.turns with
  | [] => .idle s
  | .task t :: rest => fetchTask { s with turns := rest, active := t }
  | .env d :: rest => fetchEnvironment d { s with turns := rest }

/-- The issue of an illegal descriptor (R114): it completes at once with ILLEGAL_OP and changes nothing else. -/
def State.issueIllegal (s : State) : State := s.issueNow fun s => s.complete .illegalOp .none

/-- A program with the descriptor d at program index n. -/
def placeAt (n : Nat) (d : List Byte) (prog : List (List Byte)) : List (List Byte) :=
  prog.take n ++ d :: prog.drop (n + 1)

/-- Load an instruction where the next step fetches: an operation at task 0's program index with task 0's turn first,
anything else as the first entry of the schedule (log 10). -/
def State.loadNext (s : State) (d : List Byte) : State :=
  match decodeOperation d with
  | .error (.unassigned _) => { s with turns := .env d :: s.turns }
  | _ => { s with
      tasks := s.tasks.modify 0 fun tk => { tk with prog := placeAt tk.tpc d tk.prog }
      turns := .task 0 :: s.turns }

end Sys2Proof.Machine
end

