-- ==== Sys2Proof/Machine/Step.lean ====
section
/-! DEFINITION. One step of the machine, and the placing of an instruction where the step fetches it. -/

namespace Sys2Proof.Machine

/-- One atomic step (42_serial_arbiter.md R168): the step of the agent at the head of the schedule. -/
def step (s : State) : Host.Outcome State Fault Refusal :=
  match fetch s with
  | .idle s' => .next s'
  | .run i s' => exec i s'
  | .illegal s' => .next s'.issueIllegal
  | .raw bytes s' => .next (s'.deliver bytes)
  | .refuse r => .refused r

/-- s with the instruction of a table word placed where the next step fetches it (log 10). -/
def State.withFetchWord (s : State) (nbits w : Nat) : State := s.loadNext (tableWordBytes nbits w)

end Sys2Proof.Machine
end

