-- ==== Sys2Proof/Safety.lean ====
section
/-! DEFINITION. The terms in which claims are stated: the spec's closed forms (R80, R121), what a completed or
proceeding operation leaves (R11, R34), the uses of the phases (R112), the invariants of 10_state.md R38, and the end
of a run (R16). -/

namespace Sys2Proof.Machine

/-! ## Closed forms of the wire format -/

/-- The closed form of R121: the seed and every covered byte, folded without regard to order. -/
def closedCsum (c : Config) (command : Byte) (identifier flags length : U16) (seq : Byte) (data : List Byte) : Byte :=
  c.seed ^^^ command ^^^ identifier.extractLsb' 0 8 ^^^ identifier.extractLsb' 8 8 ^^^ flags.extractLsb' 0 8
    ^^^ flags.extractLsb' 8 8 ^^^ length.extractLsb' 0 8 ^^^ length.extractLsb' 8 8 ^^^ seq
    ^^^ data.foldr (· ^^^ ·) 0

/-- The table of R80 for a frame whose every field is given: bytes 0 to 9, then the payload. Under LE the low byte of
a u16 field comes first (R61). -/
def frameWith (c : Config) (command : Byte) (identifier flags length : U16) (seq checksum : Byte) (data : List Byte) :
    List Byte :=
  match c.wireOrder with
  | .le =>
    c.sync :: command :: identifier.extractLsb' 0 8 :: identifier.extractLsb' 8 8 :: flags.extractLsb' 0 8
      :: flags.extractLsb' 8 8 :: length.extractLsb' 0 8 :: length.extractLsb' 8 8 :: seq :: checksum :: data
  | .be =>
    c.sync :: command :: identifier.extractLsb' 8 8 :: identifier.extractLsb' 0 8 :: flags.extractLsb' 8 8
      :: flags.extractLsb' 0 8 :: length.extractLsb' 8 8 :: length.extractLsb' 0 8 :: seq :: checksum :: data

/-- A frame's wire bytes with the length and checksum of its own payload (R80, R116, R121). -/
def wireFrame (c : Config) (command : Byte) (identifier flags : U16) (seq : Byte) (data : List Byte) : List Byte :=
  frameWith c command identifier flags (BitVec.ofNat 16 data.length) seq
    (closedCsum c command identifier flags (BitVec.ofNat 16 data.length) seq data) data

/-- The Frame record that a reader gets of those bytes (R12, R153). -/
def frameRecord (c : Config) (command : Byte) (identifier flags : U16) (seq : Byte) (data : List Byte) : Frame :=
  { command := command, identifier := identifier, flags := flags, length := BitVec.ofNat 16 data.length, seq := seq,
    checksum := closedCsum c command identifier flags (BitVec.ofNat 16 data.length) seq data, data := data }

/-! ## The acting task -/

/-- tk is the acting task and has no current operation: issue is enabled (R169). -/
def Idle (s : State) (tk : Task) : Prop := s.tasks[s.active]? = some tk ∧ tk.cur = none

/-- tk is the acting task and c its current operation. -/
def Running (s : State) (tk : Task) (c : Cur) : Prop := s.tasks[s.active]? = some tk ∧ tk.cur = some c

/-- s with the acting task's operation completed (R11, R34): one more result, tpc advanced by 1, cur none. -/
def completed (s : State) (tk : Task) (st : Status) (r : ResultRecord) : State :=
  let tk' : Task := { prog := tk.prog, tpc := tk.tpc + 1, cur := none, results := tk.results ++ [⟨st, r⟩] }
  { s with tasks := s.tasks.set s.active tk' }

/-- s with the acting task's current operation at c. -/
def proceeds (s : State) (tk : Task) (c : Cur) : State :=
  let tk' : Task := { prog := tk.prog, tpc := tk.tpc, cur := some c, results := tk.results }
  { s with tasks := s.tasks.set s.active tk' }

/-- SEND_REQUEST, whose failures carry a drawn payload (R219). -/
def isSendRequest : Instr → Bool
  | .sendRequest _ _ _ _ => true
  | _ => false

/-- s with the acting task's operation failed (R280): no record, but for SEND_REQUEST's draw (R219). -/
def failed (s : State) (tk : Task) (op : Instr) (st : Status) : State :=
  if isSendRequest op then
    completed { s with draws := s.draws + 1 } tk st (.payload (Config.anyPayload s.draws))
  else completed s tk st .none

/-! ## The uses of the phases (R112) -/

/-- The write-type operations. -/
def isWriteOp : Instr → Bool
  | .txWrite _ _ _ _ _ _ => true
  | .requestFrom _ _ _ _ _ _ => true
  | .sendRequest _ _ _ _ => true
  | .respond _ _ _ _ => true
  | _ => false

/-- The operations with a read: alone, or as the read half. -/
def isReadOp : Instr → Bool
  | .rxRead _ => true
  | .requestFrom _ _ _ _ _ _ => true
  | .sendRequest _ _ ack _ => ack
  | _ => false

/-- The CAN operations that queue a message. -/
def isCanSendOp : Instr → Bool
  | .canWrite _ _ _ _ => true
  | .sendEvent _ _ _ => true
  | _ => false

/-- CAN_READ. -/
def isCanReadOp : Instr → Bool
  | .canRead _ => true
  | _ => false

/-- The phases in which an operation can wait (R112, "used by"). -/
def usesPhase (op : Instr) : Phase → Bool
  | .wLock => isWriteOp op
  | .wToken => isWriteOp op
  | .wEnq => isWriteOp op
  | .rLock => isReadOp op
  | .rRecv => isReadOp op
  | .cLock => isCanSendOp op || isCanReadOp op
  | .cEnq => isCanSendOp op
  | .cDeq => isCanReadOp op

/-- s after the bytes have arrived from the wire, for an RX_FIFO within its depth (R195): those that find room are
queued in order, and a byte that does not leaves a pending error. -/
def arrived (s : State) (bs : List Byte) : State :=
  { s with
    rxFifo := (s.rxFifo ++ bs).take s.cfg.rxFifoDepth
    rxErrPending := s.rxErrPending || decide (s.cfg.rxFifoDepth < s.rxFifo.length + bs.length) }

/-- The turns in which SerialRxWire delivers the bytes, one each: WIRE_RX_BYTE is code 0x80 and the byte (R113). -/
def byteTurns (bs : List Byte) : List Turn := bs.map fun b => .env [0x80, b]

/-- s after the first of the bytes has arrived, with the others due in the next turns (R67, R168). -/
def arriving (s : State) (bs : List Byte) : State :=
  { arrived s (bs.take 1) with turns := byteTurns (bs.drop 1) ++ s.turns }

/-- The state after a failing or timed-out read that held RX_LOCK, before its operation completes (R150, R176, R182,
R191): flushed, RX_LOCK and the token given back. -/
def readDropped (s : State) : State :=
  { s with rxFifo := [], rxBuf := [], rxErrPending := false, rxLock := none, ackPending := false }

/-! ## Invariants -/

/-- R38 (a) to (d), with the converses that make them inductive: a lock is held exactly by the task whose operation
stands in one of the lock's phases, every operation is in a phase of its own, and got_token only stands in W_ENQ. -/
structure LocksHeld (s : State) : Prop where
  phases : ∀ t c, s.curOf t = some c → usesPhase c.op c.phase = true
  txHolder : ∀ t, s.txLock = some t → ∃ c, s.curOf t = some c ∧ isWriteOp c.op = true ∧
    (c.phase = .wToken ∨ c.phase = .wEnq)
  txOwner : ∀ t c, s.curOf t = some c → c.phase = .wToken ∨ c.phase = .wEnq → s.txLock = some t
  rxHolder : ∀ t, s.rxLock = some t → ∃ c, s.curOf t = some c ∧ isReadOp c.op = true ∧ c.phase = .rRecv
  rxOwner : ∀ t c, s.curOf t = some c → c.phase = .rRecv → s.rxLock = some t
  canHolder : ∀ t, s.canLock = some t → ∃ c, s.curOf t = some c ∧
    ((isCanSendOp c.op = true ∧ c.phase = .cEnq) ∨ (isCanReadOp c.op = true ∧ c.phase = .cDeq))
  canOwner : ∀ t c, s.curOf t = some c → c.phase = .cEnq ∨ c.phase = .cDeq → s.canLock = some t
  tokenPhase : ∀ t c, s.curOf t = some c → c.gotToken = true → c.phase = .wEnq
  oneToken : ∀ t u c d, s.curOf t = some c → s.curOf u = some d → c.gotToken = true → d.gotToken = true → t = u

/-- R38 (e) and (f) and R152: the queues keep to their capacities, the decoder holds a proper part of a legal frame,
and it is empty while no reader holds RX_LOCK. -/
structure QueuesBounded (s : State) : Prop where
  rxFifo : s.rxFifo.length ≤ s.cfg.rxFifoDepth
  txq : s.txq.length ≤ s.cfg.txqCap
  canRxq : s.canRxq.length ≤ s.cfg.canRxqDepth
  canTxq : s.canTxq.length ≤ s.cfg.canTxqDepth
  rxCount : s.rxBuf.length ≤ s.cfg.maxFrame
  partialFrame : s.rxBuf.length < s.cfg.hdrLen ∨
    (lengthField s.cfg s.rxBuf ≤ s.cfg.maxPayload ∧ s.rxBuf.length < s.cfg.hdrLen + lengthField s.cfg s.rxBuf)
  rxFree : s.rxLock = none → s.rxBuf = []

/-- R34: a task's tpc counts its completed operations; there are N_TASKS tasks (R291). -/
structure TasksCounted (s : State) : Prop where
  nTasks : s.tasks.length = s.cfg.nTasks
  tpc : ∀ tk ∈ s.tasks, tk.tpc = tk.results.length

/-- What every step keeps, under legal parameters (R38). -/
structure BlockInv (s : State) : Prop where
  legal : s.cfg.legal = true
  locks : LocksHeld s
  queues : QueuesBounded s
  tasks : TasksCounted s

/-! ## Runs -/

/-- The step at s is the reset event (R310). -/
def StepIsReset (s : State) : Prop := ∃ s', fetch s = .run .reset s'

/-- n turns of one instruction, stopping where it stops. -/
def repeatExec (i : Instr) : Nat → State → Host.Outcome State Fault Refusal
  | 0, s => .next s
  | n + 1, s =>
    match exec i s with
    | .next s' => repeatExec i n s'
    | .fault r => .fault r
    | .refused r => .refused r

/-- n steps, stopping where one stops. -/
def repeatStep : Nat → State → Host.Outcome State Fault Refusal
  | 0, s => .next s
  | n + 1, s =>
    match step s with
    | .next s' => repeatStep n s'
    | .fault r => .fault r
    | .refused r => .refused r

/-- The end of a run (R16): every task has finished, and TXQ and CAN_TXQ are empty. -/
def Ended (s : State) : Prop :=
  (∀ tk ∈ s.tasks, tk.tpc = tk.prog.length ∧ tk.cur = none) ∧ s.txq = [] ∧ s.canTxq = []

/-- A step is safe when it answers a next state: no operation stops the machine (R283, R286). -/
def SafeStep (s : State) : Prop := ∃ t, step s = .next t

end Sys2Proof.Machine
end

