-- ==== Sys2Proof/Certificates/Slice0/Obligations.lean ====
section
/-! DEFINITION. The statements for the provers, from the numbered rules of spec/. Completions are stated as equations
with the whole next state, so each of them is its own frame: every field not named is unchanged. -/

open Sys2Proof Sys2Proof.Machine

/-! ## Encodings -/

/-- Every well-formed instruction is read back from its own bytes, whatever follows them: so every operation of R110, with
byte arguments of any length, can stand in a program (R16). The bytes of the arguments
are the model's choice (log 5); the code bytes are R110's and R113's, the frame is R80's. -/
def Obligations.DecodeInvertsEncode : Prop :=
  ∀ (i : Instr) (rest : List Byte), i.wf = true →
    decode (encode i ++ rest) = .ok (i, rest) ∧ decodeWhole (encode i) = .ok i

/-- The other direction: what the decoder reads is well-formed and its encoding is exactly the bytes taken. -/
def Obligations.EncodeInvertsDecode : Prop :=
  ∀ (d : List Byte) (i : Instr) (rest : List Byte), decode d = .ok (i, rest) →
    i.wf = true ∧ encode i ++ rest = d

/-- A few descriptors and one frame, written out from R110, R113 and R80 (argument bytes: log 5). -/
def Obligations.WrittenWordsDecode : Prop :=
  decodeWhole [0x13, 0x07, 0x00, 0x01, 0x24, 0x01, 0x01, 0x00, 0x01, 0x64, 0x00, 0x00, 0x00]
      = .ok (.sendRequest 0x0007 [0x24, 0x01] true 100) ∧
    decodeWhole [0x11, 0xFF, 0xFF, 0xFF, 0xFF] = .ok (.rxRead tmoInf) ∧
    decodeWhole [0x15, 0x05, 0x00] = .ok (.setNodeId 0x0005) ∧
    decodeWhole [0x80, 0xAA] = .ok (.wireRxByte 0xAA) ∧
    decodeWhole [0x85] = .ok .tick ∧
    decodeWhole [0xAA, 0x06, 0x07, 0x00, 0x06, 0x00, 0x02, 0x00, 0x00, 0xDE, 0x24, 0x01]
      = .ok (.cmdRequest 0x0007 0x0006 0x0002 0x00 0xDE [0x24, 0x01])

/-! ## Steps -/

/-- A task's turn runs the operation at its program index (R169): the step is exec of it, after the turn is taken off
the schedule (log 2). -/
def Obligations.StepRunsTaskOperation : Prop :=
  ∀ (s : State) (t : Nat) (turns : List Turn) (tk : Task) (d : List Byte) (i : Instr),
    s.turns = .task t :: turns → s.tasks[t]? = some tk → tk.prog[tk.tpc]? = some d → decodeOperation d = .ok i →
    step s = exec i { s with turns := turns, active := t }

/-- An environment agent's turn runs the event or frame that its bytes spell (R113, log 2). -/
def Obligations.StepRunsEnvironmentEvent : Prop :=
  ∀ (s : State) (turns : List Turn) (d : List Byte) (i : Instr),
    s.turns = .env d :: turns → decodeEnvironment d = .ok i →
    step s = exec i { s with turns := turns }

/-- R114: a descriptor whose code is not in R110 completes at once with ILLEGAL_OP and changes no other state. -/
def Obligations.IllegalCodeCompletesIllegalOp : Prop :=
  ∀ (s : State) (t : Nat) (turns : List Turn) (tk : Task) (b : Byte) (d : List Byte),
    s.turns = .task t :: turns → s.tasks[t]? = some tk → tk.cur = none → tk.prog[tk.tpc]? = some (b :: d) →
    (b.toNat = 0x00 ∨ (0x05 ≤ b.toNat ∧ b.toNat ≤ 0x0F) ∨ (0x16 ≤ b.toNat ∧ b.toNat ≤ 0x1F) ∨ 0x25 ≤ b.toNat) →
    step s = .next (completed { s with turns := turns, active := t } tk .illegalOp .none)

/-- A frame with an unassigned command byte arrives like any other (R104), one byte a step (R67, R168): its first byte
in the step of its turn, the others in the steps that follow (log 8). -/
def Obligations.UnassignedCommandFrameArrives : Prop :=
  ∀ (s : State) (turns : List Turn) (command : Byte) (d : List Byte),
    s.turns = .env (0xAA :: command :: d) :: turns → 0x0D ≤ command.toNat →
    s.rxFifo.length ≤ s.cfg.rxFifoDepth →
    step s = .next (arriving { s with turns := turns } (0xAA :: command :: d)) ∧
      repeatStep (2 + d.length) s = .next (arrived { s with turns := turns } (0xAA :: command :: d))

/-- No instruction faults or is refused, in any state; a step is refused only for bytes that spell nothing (R283,
R286; log 6). -/
def Obligations.OnlyUnspelledBytesStop : Prop :=
  (∀ (i : Instr) (s : State), ∃ t, exec i s = .next t) ∧
    ∀ (s : State) (r : Refusal), step s = .refused r → ∃ why, r = .unspelled why ∧
      ((∃ t turns tk d, s.turns = .task t :: turns ∧ s.tasks[t]? = some tk ∧ tk.prog[tk.tpc]? = some d ∧
          decodeOperation d = .error why) ∨
        ∃ d turns, s.turns = .env d :: turns ∧ decodeEnvironment d = .error why)

/-! ## Reset -/

/-- R311: at power-on every item has its reset value, the traces are empty, and the state is the one RESET produces. -/
def Obligations.PowerOnLeavesResetValues : Prop :=
  (∃ c, State.reset = State.powerOn c) ∧
    ∀ c : Config, exec .reset (State.powerOn c) = .next (State.powerOn c) ∧
      (State.powerOn c).cfg = c ∧ (State.powerOn c).nodeId = c.undefinedId ∧ (State.powerOn c).txSeq = 0 ∧
      (State.powerOn c).txLock = none ∧ (State.powerOn c).rxLock = none ∧ (State.powerOn c).canLock = none ∧
      (State.powerOn c).ackPending = false ∧ (State.powerOn c).expSeq = 0 ∧ (State.powerOn c).expId = 0 ∧
      (State.powerOn c).rxFifo = [] ∧ (State.powerOn c).rxErrPending = false ∧ (State.powerOn c).rxBuf = [] ∧
      (State.powerOn c).txq = [] ∧ (State.powerOn c).canRxq = [] ∧ (State.powerOn c).canTxq = [] ∧
      (State.powerOn c).canRxDrops = 0 ∧ (State.powerOn c).tasks.length = c.nTasks ∧
      (∀ tk ∈ (State.powerOn c).tasks, tk.tpc = 0 ∧ tk.cur = none ∧ tk.results = []) ∧
      (State.powerOn c).wireOut = [] ∧ (State.powerOn c).canOut = []

/-- R310: RESET is always enabled, sets every item to its reset value, and keeps WIRE_OUT and CAN_OUT. -/
def Obligations.ResetEventRestoresBlock : Prop :=
  ∀ s : State, ∃ t, exec .reset s = .next t ∧ t.nodeId = s.cfg.undefinedId ∧ t.txSeq = 0 ∧ t.txLock = none ∧
    t.rxLock = none ∧ t.canLock = none ∧ t.ackPending = false ∧ t.expSeq = 0 ∧ t.expId = 0 ∧ t.rxFifo = [] ∧
    t.rxErrPending = false ∧ t.rxBuf = [] ∧ t.txq = [] ∧ t.canRxq = [] ∧ t.canTxq = [] ∧ t.canRxDrops = 0 ∧
    t.tasks.length = s.tasks.length ∧ (∀ tk ∈ t.tasks, tk.tpc = 0 ∧ tk.cur = none ∧ tk.results = []) ∧
    t.wireOut = s.wireOut ∧ t.canOut = s.canOut ∧ t.cfg = s.cfg

/-! ## Checksum and codec -/

/-- R125 with the closed form of R121. -/
def Obligations.CsumCompletesWithClosedForm : Prop :=
  ∀ (s : State) (tk : Task) (command : Byte) (identifier flags : U16) (seq : Byte) (data : List Byte), Idle s tk →
    exec (.csum command identifier flags seq data) s = .next
      (if s.cfg.maxPayload < data.length then completed s tk .frameTooLarge .none
       else completed s tk .ok
        (.csum (closedCsum s.cfg command identifier flags (BitVec.ofNat 16 data.length) seq data)))

/-- R130: the four checks in their order, then the verdict on bytes 1 to 8 and the payload against byte 9. L is the
length field, its low byte first under LE. -/
def Obligations.CsumVerifyChecksInOrder : Prop :=
  ∀ (s : State) (tk : Task) (buf : List Byte) (L : Nat), Idle s tk →
    L = (match s.cfg.wireOrder with
      | .le => (buf.getD 6 0).toNat + 256 * (buf.getD 7 0).toNat
      | .be => 256 * (buf.getD 6 0).toNat + (buf.getD 7 0).toNat) →
    exec (.csumVerify buf) s = .next
      (if buf.length < s.cfg.hdrLen then completed s tk .incomplete .none
       else if s.cfg.maxPayload < L then completed s tk .frameTooLarge .none
       else if buf.length < s.cfg.hdrLen + L then completed s tk .incomplete .none
       else if s.cfg.hdrLen + L < buf.length then completed s tk .arg .none
       else completed s tk .ok (.valid (decide
        (s.cfg.seed ^^^ ((buf.drop 1).take 8).foldr (· ^^^ ·) 0 ^^^ (buf.drop 10).foldr (· ^^^ ·) 0
          = buf.getD 9 0))))

/-- R140: the layout of R80 with the computed length and checksum; an oversize payload produces nothing. -/
def Obligations.EncodeEmitsWireLayout : Prop :=
  ∀ (s : State) (tk : Task) (command : Byte) (identifier flags : U16) (seq : Byte) (data : List Byte), Idle s tk →
    exec (.encodeFrame command identifier flags seq data) s = .next
      (if s.cfg.maxPayload < data.length then completed s tk .frameTooLarge .none
       else completed s tk .ok (.wire (wireFrame s.cfg command identifier flags seq data)))

/-- R153, the round trip: DECODE gives back every field with used = |w|, and CSUM_VERIFY accepts the bytes. -/
def Obligations.DecodeAndVerifyAcceptEncodedFrame : Prop :=
  ∀ (s : State) (tk : Task) (command : Byte) (identifier flags : U16) (seq : Byte) (data : List Byte), Idle s tk →
    s.cfg.legal = true → data.length ≤ s.cfg.maxPayload →
    exec (.decodeFrame (wireFrame s.cfg command identifier flags seq data)) s = .next
        (completed s tk .ok (.decoded (frameRecord s.cfg command identifier flags seq data)
          (wireFrame s.cfg command identifier flags seq data).length)) ∧
      exec (.csumVerify (wireFrame s.cfg command identifier flags seq data)) s
        = .next (completed s tk .ok (.valid true))

/-- R154, concatenation: the first frame is taken with used = its length, and the remaining bytes decode to the
second. -/
def Obligations.DecodeTakesFramesOneByOne : Prop :=
  ∀ (s : State) (tk : Task) (f g : TxFrame) (w : List Byte), Idle s tk → s.cfg.legal = true →
    f.data.length ≤ s.cfg.maxPayload → g.data.length ≤ s.cfg.maxPayload →
    w = wireFrame s.cfg f.command f.identifier f.flags f.seq f.data
      ++ wireFrame s.cfg g.command g.identifier g.flags g.seq g.data →
    exec (.decodeFrame w) s = .next (completed s tk .ok
        (.decoded (frameRecord s.cfg f.command f.identifier f.flags f.seq f.data) (10 + f.data.length))) ∧
      exec (.decodeFrame (w.drop (10 + f.data.length))) s = .next (completed s tk .ok
        (.decoded (frameRecord s.cfg g.command g.identifier g.flags g.seq g.data) (10 + g.data.length)))

/-- DECODE's failures (R142, R145 to R148): a wrong first byte, a length over MAX_PAYLOAD at the tenth byte, a wrong
checksum byte at the frame's last byte, a buffer that ends before the frame; what follows a failing byte is of no
account. -/
def Obligations.DecodeFailures : Prop :=
  ∀ (s : State) (tk : Task) (command : Byte) (identifier flags : U16) (seq : Byte) (data rest : List Byte),
    Idle s tk → s.cfg.legal = true →
    (∀ b : Byte, b ≠ s.cfg.sync → exec (.decodeFrame (b :: rest)) s = .next (completed s tk .badSync .none)) ∧
      (∀ (length : U16) (checksum : Byte), s.cfg.maxPayload < length.toNat →
        exec (.decodeFrame (frameWith s.cfg command identifier flags length seq checksum rest)) s
          = .next (completed s tk .frameTooLarge .none)) ∧
      (data.length ≤ s.cfg.maxPayload →
        ∀ checksum : Byte,
          checksum ≠ closedCsum s.cfg command identifier flags (BitVec.ofNat 16 data.length) seq data →
          exec (.decodeFrame
              (frameWith s.cfg command identifier flags (BitVec.ofNat 16 data.length) seq checksum data ++ rest)) s
            = .next (completed s tk .checksum .none)) ∧
      (data.length ≤ s.cfg.maxPayload →
        ∀ n : Nat, n < 10 + data.length →
          exec (.decodeFrame ((wireFrame s.cfg command identifier flags seq data).take n)) s
            = .next (completed s tk .incomplete .none))

/-- R123 (a): with the frame boundary held fixed, changing exactly one byte after the sync byte of a frame that passes
makes the check fail. -/
def Obligations.SingleByteChangeDetected : Prop :=
  ∀ (c : Config) (b : List Byte) (n : Nat) (v : Byte), 10 ≤ b.length → 1 ≤ n → n < b.length → v ≠ b.getD n 0 →
    csumOk c b = true → csumOk c (b.set n v) = false

/-- R122: the check is that every byte after the sync byte folds to the seed, and with the sync byte to seed XOR sync
(0x54 for 0xFE and 0xAA). -/
def Obligations.ChecksumOkIsFoldToSeed : Prop :=
  ∀ (c : Config) (b : List Byte), 10 ≤ b.length →
    (csumOk c b = true ↔ (b.drop 1).foldr (· ^^^ ·) 0 = c.seed) ∧
      (b.getD 0 0 = c.sync → (csumOk c b = true ↔ b.foldr (· ^^^ ·) 0 = c.seed ^^^ c.sync)) ∧
      (0xFE#8 ^^^ 0xAA#8 = 0x54#8)

/-- R63: the checksum does not depend on WIRE_ORDER, and of the frame's bytes only the positions of the identifier's,
flags' and length's two bytes differ. -/
def Obligations.WireOrderMovesOnlyFieldBytes : Prop :=
  ∀ (c : Config) (command : Byte) (identifier flags : U16) (seq : Byte) (data : List Byte),
    (∀ length : U16, csum { c with wireOrder := .le } command identifier flags length seq data
      = csum { c with wireOrder := .be } command identifier flags length seq data) ∧
    ∃ (i0 i1 f0 f1 l0 l1 k : Byte),
      frameBytes { c with wireOrder := .le } command identifier flags seq data
          = c.sync :: command :: i0 :: i1 :: f0 :: f1 :: l0 :: l1 :: seq :: k :: data ∧
        frameBytes { c with wireOrder := .be } command identifier flags seq data
          = c.sync :: command :: i1 :: i0 :: f1 :: f0 :: l1 :: l0 :: seq :: k :: data

/-! ## Issue of the writes -/

/-- R169, R170, R185, R210, R220: a legal write becomes current in W_LOCK with its whole timeout and sub none; RESPOND,
where its request has ack = 1. The frame it will write is then the arguments' own; SEND_REQUEST's has command 0x06, the
flags of R211 and TX_SEQ as it is when it is written (R212), and RESPOND's echoes command, identifier and seq. -/
def Obligations.LegalWritesBecomeCurrent : Prop :=
  ∀ (s : State) (tk : Task) (command : Byte) (identifier flags : U16) (seq : Byte) (data : List Byte) (T : U32),
    Idle s tk → data.length ≤ s.cfg.maxPayload →
    (exec (.txWrite command identifier flags seq data T) s = .next (proceeds s tk
        ⟨.txWrite command identifier flags seq data T, .wLock, T, false, .none⟩) ∧
      ∀ s', writtenFrame s' (.txWrite command identifier flags seq data T)
        = some ⟨command, identifier, flags, seq, data⟩) ∧
    (exec (.requestFrom command identifier flags seq data T) s = .next (proceeds s tk
        ⟨.requestFrom command identifier flags seq data T, .wLock, T, false, .none⟩) ∧
      ∀ s', writtenFrame s' (.requestFrom command identifier flags seq data T)
        = some ⟨command, identifier, flags, seq, data⟩) ∧
    (∀ (node : U16) (ack : Bool),
      exec (.sendRequest node data ack T) s = .next (proceeds s tk
        ⟨.sendRequest node data ack T, .wLock, T, false, .none⟩) ∧
      ∀ s', writtenFrame s' (.sendRequest node data ack T) = some ⟨0x06, node,
        (if node = s'.cfg.broadcastId then (if ack then 0x0007 else 0x0003) else if ack then 0x0006 else 0x0002),
        s'.txSeq, data⟩) ∧
    ∀ (req : Frame) (err : Option Byte), req.flags.getLsbD 2 = true →
      exec (.respond req data err T) s = .next (proceeds s tk
        ⟨.respond req data err T, .wLock, T, false, .none⟩) ∧
      ∀ s', writtenFrame s' (.respond req data err T)
        = some ⟨req.command, req.identifier, responseFlags req.flags err, req.seq, data⟩

/-- R115, R170, R185, R210, R220: an oversize payload completes with FRAME_TOO_LARGE at issue, before any lock;
SEND_REQUEST's payload is then a draw (R219). A request with ack = 0 is answered by nothing, and RESPOND completes OK
before the size is looked at (R284). -/
def Obligations.WriteIssueChecks : Prop :=
  ∀ (s : State) (tk : Task) (command : Byte) (identifier flags : U16) (seq : Byte) (data : List Byte) (T : U32),
    Idle s tk →
    (s.cfg.maxPayload < data.length →
      exec (.txWrite command identifier flags seq data T) s = .next (completed s tk .frameTooLarge .none) ∧
      exec (.requestFrom command identifier flags seq data T) s = .next (completed s tk .frameTooLarge .none) ∧
      (∀ (node : U16) (ack : Bool), ∃ any : List Byte, exec (.sendRequest node data ack T) s
        = .next (completed { s with draws := s.draws + 1 } tk .frameTooLarge (.payload any))) ∧
      ∀ (req : Frame) (err : Option Byte), req.flags.getLsbD 2 = true →
        exec (.respond req data err T) s = .next (completed s tk .frameTooLarge .none)) ∧
    ∀ (req : Frame) (err : Option Byte), req.flags.getLsbD 2 = false →
      exec (.respond req data err T) s = .next (completed s tk .ok .none)

/-- R220: RESPOND's flags keep broadcast, ack and the reserved bits, clear direction, and carry the error. -/
def Obligations.ResponseFlagsBits : Prop :=
  ∀ (flags : U16) (err : Option Byte),
    (responseFlags flags err).getLsbD 0 = flags.getLsbD 0 ∧
      (responseFlags flags err).getLsbD 1 = false ∧
      (responseFlags flags err).getLsbD 2 = flags.getLsbD 2 ∧
      (responseFlags flags err).getLsbD 3 = err.isSome ∧
      (responseFlags flags err).extractLsb' 4 8 = err.getD 0 ∧
      (responseFlags flags err).extractLsb' 12 4 = flags.extractLsb' 12 4

/-! ## The write machine -/

/-- R171, R172: w_lock takes a free TX_LOCK, which the write then holds in W_TOKEN or W_ENQ; w_token takes a free token
with the sequence number and identifier of the frame to be written. -/
def Obligations.WriteTakesLockThenToken : Prop :=
  ∀ (s : State) (tk : Task) (c : Cur) (f : TxFrame), Running s tk c → writtenFrame s c.op = some f →
    (c.phase = .wLock → s.txLock = none →
      exec c.op s = .next (proceeds { s with txLock := some s.active } tk
        { c with phase := if f.flags.getLsbD 1 = true ∧ f.flags.getLsbD 2 = true then .wToken else .wEnq })) ∧
    (c.phase = .wToken → s.ackPending = false →
      exec c.op s = .next (proceeds { s with ackPending := true, expSeq := f.seq, expId := f.identifier } tk
        { c with gotToken := true, phase := .wEnq }))

/-- R174: w_enq pushes the whole encoded frame in one step and gives TX_LOCK back; then, by operation, the write
completes or its read half starts with a fresh timeout. SEND_REQUEST's frame (R211) carries TX_SEQ, which advances by 1
(R212). A legal frame always fits an empty TXQ. -/
def Obligations.EnqueuePushesWholeFrame : Prop :=
  ∀ (s : State) (tk : Task) (c : Cur) (data : List Byte) (T : U32), Running s tk c → c.phase = .wEnq →
    data.length ≤ s.cfg.maxPayload → s.cfg.hdrLen + data.length ≤ s.cfg.txqCap - s.txq.length →
    (∀ (command : Byte) (identifier flags : U16) (seq : Byte), c.op = .txWrite command identifier flags seq data T →
      exec c.op s = .next (completed { s with
        txq := s.txq ++ wireFrame s.cfg command identifier flags seq data, txLock := none } tk .ok .none)) ∧
    (∀ (req : Frame) (err : Option Byte), c.op = .respond req data err T →
      exec c.op s = .next (completed { s with
        txq := s.txq ++ wireFrame s.cfg req.command req.identifier (responseFlags req.flags err) req.seq data,
        txLock := none } tk .ok .none)) ∧
    (∀ (command : Byte) (identifier flags : U16) (seq : Byte),
      c.op = .requestFrom command identifier flags seq data T →
      exec c.op s = .next (proceeds { s with
        txq := s.txq ++ wireFrame s.cfg command identifier flags seq data, txLock := none } tk
        { c with phase := .rLock, tmo := T, gotToken := false })) ∧
    (∀ node : U16, c.op = .sendRequest node data true T →
      exec c.op s = .next (proceeds { s with
        txq := s.txq ++ wireFrame s.cfg 0x06 node (if node = s.cfg.broadcastId then 0x0007 else 0x0006) s.txSeq data,
        txLock := none, txSeq := s.txSeq + 1 } tk { c with phase := .rLock, tmo := T, gotToken := false })) ∧
    (∀ node : U16, c.op = .sendRequest node data false T →
      exec c.op s = .next (completed { s with
        txq := s.txq ++ wireFrame s.cfg 0x06 node (if node = s.cfg.broadcastId then 0x0003 else 0x0002) s.txSeq data,
        txLock := none, txSeq := s.txSeq + 1 } tk .ok (.payload data))) ∧
    ∀ (c' : Config) (data' : List Byte), c'.legal = true → data'.length ≤ c'.maxPayload →
      c'.hdrLen + data'.length ≤ c'.txqCap

/-- R173: the expire step of a write that is blocked with tmo = 0. TX_LOCK and the token it took are given back, no byte
is enqueued, and no read half follows. -/
def Obligations.WriteTimeoutGivesBack : Prop :=
  ∀ (s : State) (tk : Task) (c : Cur), Running s tk c → isWriteOp c.op = true → c.tmo = 0 →
    (c.phase = .wLock → s.txLock ≠ none → exec c.op s = .next (failed s tk c.op .timeout)) ∧
    (c.phase = .wToken → s.ackPending = true →
      exec c.op s = .next (failed { s with txLock := none } tk c.op .timeout)) ∧
    (c.phase = .wEnq →
      (∀ f, writtenFrame s c.op = some f → s.cfg.txqCap - s.txq.length < s.cfg.hdrLen + f.data.length) →
      exec c.op s = .next (failed { s with
        txLock := none, ackPending := if c.gotToken then false else s.ackPending } tk c.op .timeout))

/-- A whole TX_WRITE (R169 to R174), whatever its timeout, 0 included (R9): with the lock and, where needed, the token
free and room in TXQ, it completes in three turns, or four with the token, with its frame in TXQ. -/
def Obligations.UnblockedTxWriteCompletes : Prop :=
  ∀ (s : State) (tk : Task) (command : Byte) (identifier flags : U16) (seq : Byte) (data : List Byte) (T : U32),
    Idle s tk → data.length ≤ s.cfg.maxPayload → s.txLock = none →
    s.cfg.hdrLen + data.length ≤ s.cfg.txqCap - s.txq.length →
    (needsToken flags = false →
      repeatExec (.txWrite command identifier flags seq data T) 3 s = .next (completed
        { s with txq := s.txq ++ wireFrame s.cfg command identifier flags seq data } tk .ok .none)) ∧
    (needsToken flags = true → s.ackPending = false →
      repeatExec (.txWrite command identifier flags seq data T) 4 s = .next (completed
        { s with txq := s.txq ++ wireFrame s.cfg command identifier flags seq data,
                 ackPending := true, expSeq := seq, expId := identifier } tk .ok .none))

/-! ## The read machine -/

/-- R175: RX_READ becomes current in R_LOCK, and r_lock takes a free RX_LOCK; so does the read half of REQUEST_FROM and
SEND_REQUEST. -/
def Obligations.ReadIssuesAndTakesLock : Prop :=
  (∀ (s : State) (tk : Task) (T : U32), Idle s tk →
    exec (.rxRead T) s = .next (proceeds s tk ⟨.rxRead T, .rLock, T, false, .none⟩)) ∧
  ∀ (s : State) (tk : Task) (c : Cur), Running s tk c → isReadOp c.op = true → c.phase = .rLock → s.rxLock = none →
    exec c.op s = .next (proceeds { s with rxLock := some s.active } tk { c with phase := .rRecv })

/-- R145, R176: a byte that does not complete the frame is taken off RX_FIFO and kept; nothing else changes. -/
def Obligations.ReadKeepsPartialFrame : Prop :=
  ∀ (s : State) (tk : Task) (c : Cur) (b : Byte) (rest : List Byte), Running s tk c → isReadOp c.op = true →
    c.phase = .rRecv → s.rxErrPending = false → s.rxFifo = b :: rest →
    ((s.rxBuf = [] ∧ b = s.cfg.sync) ∨
      (s.rxBuf ≠ [] ∧ s.rxBuf.length + 1 < s.cfg.hdrLen) ∨
      (s.rxBuf ≠ [] ∧ s.cfg.hdrLen ≤ s.rxBuf.length + 1 ∧
        lengthField s.cfg (s.rxBuf ++ [b]) ≤ s.cfg.maxPayload ∧
        s.rxBuf.length + 1 < s.cfg.hdrLen + lengthField s.cfg (s.rxBuf ++ [b]))) →
    exec c.op s = .next { s with rxFifo := rest, rxBuf := s.rxBuf ++ [b] }

/-- R176, R182, R155, R216, R217: the byte that completes a good frame completes the read. addressed and matched are as
R155 and R216 say, read at this step; RX_LOCK is given back, and the token too but for an unmatched frame under
SEQ_STRICT. A correlated read under SEQ_STRICT completes only on a match. -/
def Obligations.ReadCompletesOnWholeFrame : Prop :=
  ∀ (s : State) (tk : Task) (c : Cur) (b : Byte) (rest : List Byte) (command : Byte) (identifier flags : U16)
    (seq : Byte) (data : List Byte), Running s tk c → c.phase = .rRecv → s.rxErrPending = false →
    s.rxFifo = b :: rest → s.cfg.legal = true → data.length ≤ s.cfg.maxPayload →
    s.rxBuf ++ [b] = wireFrame s.cfg command identifier flags seq data →
    ∃ a m : Bool,
      (a = true ↔ (s.nodeId ≠ s.cfg.undefinedId ∧ identifier = s.nodeId) ∨ identifier = s.cfg.broadcastId ∨
        flags.getLsbD 0 = true) ∧
      (m = true ↔ s.ackPending = true ∧ flags.getLsbD 1 = false ∧ seq = s.expSeq ∧
        (s.expId = s.cfg.broadcastId ∨ identifier = s.expId)) ∧
      (∀ T, c.op = .rxRead T → exec c.op s = .next (completed { s with
        rxFifo := rest, rxBuf := [], rxLock := none,
        ackPending := if s.cfg.seqStrict = true ∧ m = false then s.ackPending else false } tk .ok
        (.received (frameRecord s.cfg command identifier flags seq data) a m))) ∧
      ((s.cfg.seqStrict = true → m = true) →
        (∀ rc ri rf rs rd T, c.op = .requestFrom rc ri rf rs rd T → exec c.op s = .next (completed { s with
          rxFifo := rest, rxBuf := [], rxLock := none, ackPending := false } tk .ok
          (.received (frameRecord s.cfg command identifier flags seq data) a m))) ∧
        ∀ node payload ack T, c.op = .sendRequest node payload ack T → exec c.op s = .next (completed { s with
          rxFifo := rest, rxBuf := [], rxLock := none, ackPending := false } tk .ok
          (.response data (frameRecord s.cfg command identifier flags seq data) m)))

/-- R217 (b): under SEQ_STRICT a correlated read skips a whole frame that does not match: the frame is discarded, and
RX_LOCK, the token and the remaining timeout are kept. -/
def Obligations.StrictReadSkipsUnmatchedFrame : Prop :=
  ∀ (s : State) (tk : Task) (c : Cur) (b : Byte) (rest : List Byte) (command : Byte) (identifier flags : U16)
    (seq : Byte) (data : List Byte), Running s tk c → c.phase = .rRecv → s.rxErrPending = false →
    s.rxFifo = b :: rest → s.cfg.legal = true → data.length ≤ s.cfg.maxPayload →
    s.rxBuf ++ [b] = wireFrame s.cfg command identifier flags seq data → s.cfg.seqStrict = true →
    ¬ (s.ackPending = true ∧ flags.getLsbD 1 = false ∧ seq = s.expSeq ∧
        (s.expId = s.cfg.broadcastId ∨ identifier = s.expId)) →
    ((∃ rc ri rf rs rd T, c.op = .requestFrom rc ri rf rs rd T) ∨
      ∃ node payload ack T, c.op = .sendRequest node payload ack T) →
    exec c.op s = .next { s with rxFifo := rest, rxBuf := [] }

/-- R177, R150, R182: a pending driver error fails the read before any byte is taken; the read flushes, and gives back
RX_LOCK and the token. -/
def Obligations.DriverErrorFailsReadFirst : Prop :=
  ∀ (s : State) (tk : Task) (c : Cur), Running s tk c → isReadOp c.op = true → c.phase = .rRecv →
    s.rxErrPending = true →
    exec c.op s = .next (failed (readDropped s) tk c.op .driver)

/-- R145 to R148, R176: a read that takes a wrong first byte, a tenth byte that completes too large a length, or the
last byte of a frame with a wrong checksum, fails with that status and flushes what follows. -/
def Obligations.BadByteFailsReadAndFlushes : Prop :=
  ∀ (s : State) (tk : Task) (c : Cur) (b : Byte) (rest : List Byte), Running s tk c → isReadOp c.op = true →
    c.phase = .rRecv → s.rxErrPending = false → s.rxFifo = b :: rest → s.cfg.legal = true →
    (s.rxBuf = [] → b ≠ s.cfg.sync → exec c.op s = .next (failed (readDropped s) tk c.op .badSync)) ∧
    (s.rxBuf.length + 1 = s.cfg.hdrLen → s.cfg.maxPayload < lengthField s.cfg (s.rxBuf ++ [b]) →
      exec c.op s = .next (failed (readDropped s) tk c.op .frameTooLarge)) ∧
    ∀ (command : Byte) (identifier flags : U16) (seq checksum : Byte) (data : List Byte),
      data.length ≤ s.cfg.maxPayload →
      s.rxBuf ++ [b]
        = frameWith s.cfg command identifier flags (BitVec.ofNat 16 data.length) seq checksum data →
      checksum ≠ closedCsum s.cfg command identifier flags (BitVec.ofNat 16 data.length) seq data →
      exec c.op s = .next (failed (readDropped s) tk c.op .checksum)

/-- R191: the expire step of a read that is blocked with tmo = 0. Waiting for the lock it only gives the token back;
waiting for a byte it also flushes and gives RX_LOCK back. -/
def Obligations.ReadTimeoutGivesTokenBack : Prop :=
  ∀ (s : State) (tk : Task) (c : Cur), Running s tk c → isReadOp c.op = true → c.tmo = 0 →
    (c.phase = .rLock → s.rxLock ≠ none →
      exec c.op s = .next (failed { s with ackPending := false } tk c.op .timeout)) ∧
    (c.phase = .rRecv → s.rxErrPending = false → s.rxFifo = [] →
      exec c.op s = .next (failed (readDropped s) tk c.op .timeout))

/-- The receiver understands the sender: an RX_READ that holds RX_LOCK over a whole encoded frame in RX_FIFO takes its
bytes one a turn and completes OK with exactly the frame that was encoded, addressed and matched as R155 and R216 say,
leaving what follows (R151, R153, R176, R182). -/
def Obligations.ReadOfEncodedFrameCompletes : Prop :=
  ∀ (s : State) (tk : Task) (c : Cur) (rest : List Byte) (command : Byte) (identifier flags : U16)
    (seq : Byte) (data : List Byte) (T : U32) (f : Frame), Running s tk c → c.op = .rxRead T → c.phase = .rRecv →
    s.rxErrPending = false → s.rxBuf = [] → s.cfg.legal = true → data.length ≤ s.cfg.maxPayload →
    s.rxFifo = wireFrame s.cfg command identifier flags seq data ++ rest →
    f = frameRecord s.cfg command identifier flags seq data →
    repeatExec (.rxRead T) (10 + data.length) s = .next (completed { s with
      rxFifo := rest, rxLock := none,
      ackPending := if s.cfg.seqStrict = true ∧ matched s f = false then s.ackPending else false } tk .ok
      (.received f (addressed s f) (matched s f)))

/-! ## Every blocking operation -/

/-- R190, R192: a current operation none of whose progress steps is enabled, and whose timeout has not run out, waits:
its turn changes nothing. -/
def Obligations.BlockedOperationWaits : Prop :=
  ∀ (s : State) (tk : Task) (c : Cur), Running s tk c → usesPhase c.op c.phase = true → c.tmo ≠ 0 →
    (c.phase = .wLock → s.txLock ≠ none) → (c.phase = .wToken → s.ackPending = true) →
    (c.phase = .wEnq → ∀ f, writtenFrame s c.op = some f → s.cfg.txqCap - s.txq.length < s.cfg.hdrLen + f.data.length) →
    (c.phase = .rLock → s.rxLock ≠ none) →
    (c.phase = .rRecv → s.rxErrPending = false ∧ s.rxFifo = []) →
    (c.phase = .cLock → s.canLock ≠ none) → (c.phase = .cEnq → s.cfg.canTxqDepth ≤ s.canTxq.length) →
    (c.phase = .cDeq → s.canRxq = []) →
    exec c.op s = .next s

/-! ## Node address and CAN -/

/-- R225: SET_NODE_ID writes NODE_ID and completes OK; a frame completing after it sees the new value, and with
UNDEFINED_ID, or BROADCAST_ID, only broadcasts match. -/
def Obligations.SetNodeIdWritesNodeId : Prop :=
  ∀ (s : State) (tk : Task) (id : U16), Idle s tk →
    exec (.setNodeId id) s = .next (completed { s with nodeId := id } tk .ok .none) ∧
      ∀ f : Frame, addressed (completed { s with nodeId := id } tk .ok .none) f = true ↔
        (id ≠ s.cfg.undefinedId ∧ f.identifier = id) ∨ f.identifier = s.cfg.broadcastId ∨ f.flags.getLsbD 0 = true

/-- R250, R255: CAN_LEN unless len is 8; otherwise both views and the key, under either byte order. -/
def Obligations.CanParseGivesBothViews : Prop :=
  ∀ (s : State) (tk : Task) (id : U32) (len : BitVec 4) (d0 d1 d2 d3 d4 d5 d6 d7 : Byte), Idle s tk →
    (len.toNat ≠ s.cfg.canFrameBytes →
      exec (.canParse ⟨id, len, ⟨d0, d1, d2, d3, d4, d5, d6, d7⟩⟩) s = .next (completed s tk .canLen .none)) ∧
    (len.toNat = s.cfg.canFrameBytes →
      ∃ (reserved : U16) (data : U32) (nodeId : Option U16),
        exec (.canParse ⟨id, len, ⟨d0, d1, d2, d3, d4, d5, d6, d7⟩⟩) s = .next (completed s tk .ok
          (.parsed ⟨d0, [d1, d2, d3, d4, d5, d6, d7]⟩ ⟨d0, d1, reserved, data⟩
            ⟨if s.cfg.canLayout = .generic then d0 else d1, nodeId⟩)) ∧
        (s.cfg.wireOrder = .le → reserved.toNat = d2.toNat + 256 * d3.toNat ∧
          data.toNat = d4.toNat + 256 * d5.toNat + 65536 * d6.toNat + 16777216 * d7.toNat) ∧
        (s.cfg.wireOrder = .be → reserved.toNat = 256 * d2.toNat + d3.toNat ∧
          data.toNat = 16777216 * d4.toNat + 65536 * d5.toNat + 256 * d6.toNat + d7.toNat) ∧
        (id.toNat < 65536 → ∃ n : U16, nodeId = some n ∧ n.toNat = id.toNat) ∧
        (65536 ≤ id.toNat → nodeId = none))

/-- R258: CAN_BUILD in both layouts; GENERIC args are padded with 0 to seven, and more than seven give ARG. -/
def Obligations.CanBuildLaysOutBytes : Prop :=
  ∀ (s : State) (tk : Task), Idle s tk →
    (∀ (cmd : Byte) (args : List Byte), 7 < args.length →
      exec (.canBuild (.generic ⟨cmd, args⟩)) s = .next (completed s tk .arg .none)) ∧
    (∀ (cmd : Byte) (args : List Byte), args.length ≤ 7 → ∃ d : Bytes8,
      exec (.canBuild (.generic ⟨cmd, args⟩)) s = .next (completed s tk .ok (.canData d)) ∧
        bytes8List d = cmd :: args ++ List.replicate (7 - args.length) 0) ∧
    ∀ (command event : Byte) (reserved : U16) (data : U32), ∃ d : Bytes8,
      exec (.canBuild (.legacy ⟨command, event, reserved, data⟩)) s = .next (completed s tk .ok (.canData d)) ∧
        bytes8List d = (match s.cfg.wireOrder with
          | .le => [command, event, reserved.extractLsb' 0 8, reserved.extractLsb' 8 8, data.extractLsb' 0 8,
              data.extractLsb' 8 8, data.extractLsb' 16 8, data.extractLsb' 24 8]
          | .be => [command, event, reserved.extractLsb' 8 8, reserved.extractLsb' 0 8, data.extractLsb' 24 8,
              data.extractLsb' 16 8, data.extractLsb' 8 8, data.extractLsb' 0 8])

/-- R259: the view of CAN_BUILD's own layout that CAN_PARSE gives is what was built, short GENERIC args followed by
zeros. -/
def Obligations.CanParseInvertsCanBuild : Prop :=
  ∀ (s : State) (tk : Task) (id : U32), Idle s tk → s.cfg.canFrameBytes = 8 →
    (∀ (cmd : Byte) (args : List Byte), args.length ≤ 7 → ∃ d legacy key,
      exec (.canBuild (.generic ⟨cmd, args⟩)) s = .next (completed s tk .ok (.canData d)) ∧
        exec (.canParse ⟨id, 8, d⟩) s = .next (completed s tk .ok
          (.parsed ⟨cmd, args ++ List.replicate (7 - args.length) 0⟩ legacy key))) ∧
    ∀ fields : LegacyFields, ∃ d generic key,
      exec (.canBuild (.legacy fields)) s = .next (completed s tk .ok (.canData d)) ∧
        exec (.canParse ⟨id, 8, d⟩) s = .next (completed s tk .ok (.parsed generic fields key))

/-- R240, R115, R284: CAN_WRITE's checks in their order, then C_LOCK with its whole timeout and sub none (R169); so does CAN_READ. -/
def Obligations.CanIssueChecks : Prop :=
  ∀ (s : State) (tk : Task) (data : Bytes8) (id : U32) (len : BitVec 4) (T : U32), Idle s tk →
    (s.cfg.canFrameBytes < len.toNat ∨ 2 ^ s.cfg.canIdBits.width ≤ id.toNat →
      exec (.canWrite data id len T) s = .next (completed s tk .arg .none)) ∧
    (len.toNat ≤ s.cfg.canFrameBytes → id.toNat < 2 ^ s.cfg.canIdBits.width →
      exec (.canWrite data id len T) s
        = .next (proceeds s tk ⟨.canWrite data id len T, .cLock, T, false, .none⟩)) ∧
    exec (.canRead T) s = .next (proceeds s tk ⟨.canRead T, .cLock, T, false, .none⟩)

/-- R262, R284: SEND_EVENT's operand must fit CAN_LAYOUT, and NODE_ID the identifier width; the message is then built
at issue with NODE_ID as its identifier, [event] ++ args under GENERIC and command byte 0x07 under LEGACY. That
it is held in sub from issue on, where R169 writes sub none, is the model's choice, DEDUCED from R262 and R34 (log 20). -/
def Obligations.SendEventBuildsMessage : Prop :=
  ∀ (s : State) (tk : Task) (event : Byte) (T : U32), Idle s tk → s.cfg.canFrameBytes = 8 →
    (∀ operand : EventOperand,
      ((s.cfg.canLayout = .generic ∧ ((∃ w, operand = .data w) ∨ ∃ args, operand = .args args ∧ 7 < args.length)) ∨
        (s.cfg.canLayout = .legacy ∧ ∃ args, operand = .args args) ∨
        2 ^ s.cfg.canIdBits.width ≤ s.nodeId.toNat) →
      exec (.sendEvent event operand T) s = .next (completed s tk .arg .none)) ∧
    (s.nodeId.toNat < 2 ^ s.cfg.canIdBits.width →
      (s.cfg.canLayout = .generic → ∀ args : List Byte, args.length ≤ 7 → ∃ m : CanMsg,
        exec (.sendEvent event (.args args) T) s
            = .next (proceeds s tk ⟨.sendEvent event (.args args) T, .cLock, T, false, .msg m⟩) ∧
          m.id.toNat = s.nodeId.toNat ∧ m.len = 8 ∧
          bytes8List m.data = event :: args ++ List.replicate (7 - args.length) 0) ∧
      (s.cfg.canLayout = .legacy → ∀ word : U32, ∃ m : CanMsg,
        exec (.sendEvent event (.data word) T) s
            = .next (proceeds s tk ⟨.sendEvent event (.data word) T, .cLock, T, false, .msg m⟩) ∧
          m.id.toNat = s.nodeId.toNat ∧ m.len = 8 ∧
          bytes8List m.data = (match s.cfg.wireOrder with
            | .le => [0x07, event, 0, 0, word.extractLsb' 0 8, word.extractLsb' 8 8, word.extractLsb' 16 8,
                word.extractLsb' 24 8]
            | .be => [0x07, event, 0, 0, word.extractLsb' 24 8, word.extractLsb' 16 8, word.extractLsb' 8 8,
                word.extractLsb' 0 8])))

/-- R240, R245: c_lock takes a free CAN_LOCK and goes on to C_ENQ, or for CAN_READ to C_DEQ. -/
def Obligations.CanLockTaken : Prop :=
  ∀ (s : State) (tk : Task) (c : Cur), Running s tk c → c.phase = .cLock → s.canLock = none →
    (isCanSendOp c.op = true →
      exec c.op s = .next (proceeds { s with canLock := some s.active } tk { c with phase := .cEnq })) ∧
    (isCanReadOp c.op = true →
      exec c.op s = .next (proceeds { s with canLock := some s.active } tk { c with phase := .cDeq }))

/-- R241: with room in CAN_TXQ the message, CAN_WRITE's arguments or what SEND_EVENT prepared at issue, is queued,
its data bytes at or beyond len as 0, CAN_LOCK is given back and the operation completes OK. That SEND_EVENT's message
stands in sub is the model's choice, DEDUCED from R262 and R34 (log 20). -/
def Obligations.CanMessageQueued : Prop :=
  ∀ (s : State) (tk : Task) (c : Cur) (m : CanMsg), Running s tk c → c.phase = .cEnq →
    (∃ T, c.op = .canWrite m.data m.id m.len T) ∨
      ((∃ event operand T, c.op = .sendEvent event operand T) ∧ c.sub = .msg m) → s.canTxq.length < s.cfg.canTxqDepth →
    ∃ d : Bytes8,
      exec c.op s = .next (completed { s with canTxq := s.canTxq ++ [⟨m.id, m.len, d⟩], canLock := none } tk .ok .none) ∧
        ∀ n, n < 8 → (bytes8List d).getD n 0 = if n < m.len.toNat then (bytes8List m.data).getD n 0 else 0

/-- R245, R268: c_deq takes the oldest message, gives CAN_LOCK back and completes OK with it as it was received. -/
def Obligations.CanReadTakesOldestMessage : Prop :=
  ∀ (s : State) (tk : Task) (c : Cur) (m : CanMsg) (rest : List CanMsg), Running s tk c → isCanReadOp c.op = true →
    c.phase = .cDeq → s.canRxq = m :: rest →
    exec c.op s = .next (completed { s with canRxq := rest, canLock := none } tk .ok (.canMsg m))

/-- R247: the expire step of a CAN operation that is blocked with tmo = 0. -/
def Obligations.CanTimeoutGivesLockBack : Prop :=
  ∀ (s : State) (tk : Task) (c : Cur), Running s tk c → isCanSendOp c.op = true ∨ isCanReadOp c.op = true →
    c.tmo = 0 →
    (c.phase = .cLock → s.canLock ≠ none → exec c.op s = .next (completed s tk .timeout .none)) ∧
    (c.phase = .cEnq → s.cfg.canTxqDepth ≤ s.canTxq.length →
      exec c.op s = .next (completed { s with canLock := none } tk .timeout .none)) ∧
    (c.phase = .cDeq → s.canRxq = [] →
      exec c.op s = .next (completed { s with canLock := none } tk .timeout .none))

/-! ## Environment events -/

/-- R195, R196: a received byte is queued, or lost with a pending error when RX_FIFO is full; a driver error is
pending until a read reports it. -/
def Obligations.WireByteQueuedOrLost : Prop :=
  ∀ (s : State) (b : Byte),
    (s.rxFifo.length < s.cfg.rxFifoDepth →
      exec (.wireRxByte b) s = .next { s with rxFifo := s.rxFifo ++ [b] }) ∧
    (s.cfg.rxFifoDepth ≤ s.rxFifo.length → exec (.wireRxByte b) s = .next { s with rxErrPending := true }) ∧
    exec .wireRxError s = .next { s with rxErrPending := true }

/-- R197, R266: the head of TXQ goes to WIRE_OUT, the head of CAN_TXQ to CAN_OUT, with no echo. -/
def Obligations.QueuedBytesAndMessagesSent : Prop :=
  ∀ s : State,
    (∀ x rest, s.txq = x :: rest →
      exec .wireTxByte s = .next { s with txq := rest, wireOut := s.wireOut ++ [x] }) ∧
    ∀ m rest, s.canTxq = m :: rest →
      exec .canTxDone s = .next { s with canTxq := rest, canOut := s.canOut ++ [m] }

/-- R265: a deliverable message is queued, or dropped and counted modulo 2^32 when CAN_RXQ is full. -/
def Obligations.CanMessageReceivedOrDropped : Prop :=
  ∀ (s : State) (m : CanMsg), m.len.toNat ≤ 8 → s.cfg.canFrameBytes = 8 →
    m.id.toNat < 2 ^ s.cfg.canIdBits.width →
    (∀ n, m.len.toNat ≤ n → n < 8 → (bytes8List m.data).getD n 0 = 0) →
    (s.canRxq.length < s.cfg.canRxqDepth → exec (.canRxMsg m) s = .next { s with canRxq := s.canRxq ++ [m] }) ∧
    (s.cfg.canRxqDepth ≤ s.canRxq.length → ∃ n : U32, n.toNat = (s.canRxDrops.toNat + 1) % 2 ^ 32 ∧
      exec (.canRxMsg m) s = .next { s with canRxDrops := n })

/-- R198: while no operation is due to time out, a tick lowers by 1 every countdown that is neither 0 nor infinite and
changes nothing else; while one is due, no time passes (log 3: the turn changes nothing). -/
def Obligations.TickCountsDownUnlessOneIsDue : Prop :=
  ∀ s : State,
    ((∀ tk ∈ s.tasks, ∀ c, tk.cur = some c → c.tmo = 0 → progressEnabled s c = true) →
      ∃ tasks, exec .tick s = .next { s with tasks := tasks } ∧ tasks.length = s.tasks.length ∧
        ∀ (n : Nat) (tk : Task), s.tasks[n]? = some tk → ∃ tk', tasks[n]? = some tk' ∧ tk'.prog = tk.prog ∧
          tk'.tpc = tk.tpc ∧ tk'.results = tk.results ∧ (tk.cur = none → tk'.cur = none) ∧
          ∀ c, tk.cur = some c → ∃ c', tk'.cur = some c' ∧ c'.op = c.op ∧ c'.phase = c.phase ∧
            c'.gotToken = c.gotToken ∧ c'.sub = c.sub ∧
            (c.tmo = 0 ∨ c.tmo = 0xFFFFFFFF → c'.tmo = c.tmo) ∧
            (c.tmo ≠ 0 → c.tmo ≠ 0xFFFFFFFF → c'.tmo.toNat + 1 = c.tmo.toNat)) ∧
    ((∃ tk ∈ s.tasks, ∃ c, tk.cur = some c ∧ c.tmo = 0 ∧ progressEnabled s c = false) →
      exec .tick s = .next s)

/-- The thirteen command rows (R91 to R104): a frame with that command byte arrives in the layout of R80, every
command alike, one byte a step (R67, R168): the row's step takes in the first byte and puts the others on the schedule
(log 8), and the steps that follow take them in order, with the overflow of R195. -/
def Obligations.CommandFramesArriveAlike : Prop :=
  ∀ (s : State) (i f l : U16) (q k : Byte) (d : List Byte), s.rxFifo.length ≤ s.cfg.rxFifoDepth →
    exec (.cmdNop i f l q k d) s = .next (arriving s (frameWith s.cfg 0x00 i f l q k d)) ∧
      exec (.cmdRestart i f l q k d) s = .next (arriving s (frameWith s.cfg 0x01 i f l q k d)) ∧
      exec (.cmdPing i f l q k d) s = .next (arriving s (frameWith s.cfg 0x02 i f l q k d)) ∧
      exec (.cmdLedCtrl i f l q k d) s = .next (arriving s (frameWith s.cfg 0x03 i f l q k d)) ∧
      exec (.cmdDiscover i f l q k d) s = .next (arriving s (frameWith s.cfg 0x04 i f l q k d)) ∧
      exec (.cmdGetBoardInfo i f l q k d) s = .next (arriving s (frameWith s.cfg 0x05 i f l q k d)) ∧
      exec (.cmdRequest i f l q k d) s = .next (arriving s (frameWith s.cfg 0x06 i f l q k d)) ∧
      exec (.cmdEvent i f l q k d) s = .next (arriving s (frameWith s.cfg 0x07 i f l q k d)) ∧
      exec (.cmdFlashLoaderBegin i f l q k d) s = .next (arriving s (frameWith s.cfg 0x08 i f l q k d)) ∧
      exec (.cmdFlashLoaderWrite i f l q k d) s = .next (arriving s (frameWith s.cfg 0x09 i f l q k d)) ∧
      exec (.cmdFlashLoaderCheck i f l q k d) s = .next (arriving s (frameWith s.cfg 0x0A i f l q k d)) ∧
      exec (.cmdFlashLoaderEnd i f l q k d) s = .next (arriving s (frameWith s.cfg 0x0B i f l q k d)) ∧
      exec (.cmdReadRegister i f l q k d) s = .next (arriving s (frameWith s.cfg 0x0C i f l q k d)) ∧
      ∀ bs : List Byte, bs ≠ [] → repeatStep (bs.length - 1) (arriving s bs) = .next (arrived s bs)

/-! ## Invariants and rules of the whole machine -/

/-- R38: every step keeps the block's invariant, from every state that meets it. -/
def Obligations.StepKeepsBlockInvariant : Prop :=
  ∀ s t : State, BlockInv s → step s = .next t → BlockInv t

/-- R311, R38: the invariant holds at power-on under legal parameters, and at reset. -/
def Obligations.ResetMeetsBlockInvariant : Prop :=
  BlockInv State.reset ∧ ∀ c : Config, c.legal = true → BlockInv (State.powerOn c)

/-- R62, R77: no step changes the parameters or a task's program. -/
def Obligations.StepKeepsParametersAndPrograms : Prop :=
  ∀ s t : State, step s = .next t → t.cfg = s.cfg ∧ t.tasks.map Task.prog = s.tasks.map Task.prog

/-- R283, R34: but for RESET, a step leaves a task's results and tpc as they are, or appends exactly one completion,
advances tpc by 1 and leaves the task with no current operation; and it does so for at most one task. -/
def Obligations.StepCompletesAtMostOneOperation : Prop :=
  ∀ s t : State, step s = .next t → ¬ StepIsReset s →
    t.tasks.length = s.tasks.length ∧
      ∀ (n : Nat) (tk tk' : Task), s.tasks[n]? = some tk → t.tasks[n]? = some tk' →
        (tk'.results = tk.results ∧ tk'.tpc = tk.tpc) ∨
          (n = t.active ∧ tk'.tpc = tk.tpc + 1 ∧ tk'.cur = none ∧ ∃ r, tk'.results = tk.results ++ [r])

/-- R190, R193: a step completes an operation with TIMEOUT only when that operation was current with tmo = 0 and none of
its progress steps was enabled. -/
def Obligations.TimeoutOnlyWhenDueAndBlocked : Prop :=
  ∀ (s t : State) (n : Nat) (tk tk' : Task) (r : ResultRecord), step s = .next t → s.tasks[n]? = some tk →
    t.tasks[n]? = some tk' → tk'.results = tk.results ++ [⟨.timeout, r⟩] →
    ∃ c, tk.cur = some c ∧ c.tmo = 0 ∧ progressEnabled s c = false

/-- R72, R76: while the token is out, no step takes it again: EXP_SEQ and EXP_ID stay, and no operation's got_token is
newly set. -/
def Obligations.TokenTakenOnlyWhenFree : Prop :=
  ∀ s t : State, step s = .next t → ¬ StepIsReset s →
    (s.ackPending = true → t.expSeq = s.expSeq ∧ t.expId = s.expId) ∧
      ∀ (n : Nat) (c' : Cur), t.curOf n = some c' → c'.gotToken = true →
        (∃ c, s.curOf n = some c ∧ c.gotToken = true) ∨ (s.ackPending = false ∧ t.ackPending = true)

/-- R316: the token is given back only by the completion of a read or read half, by the failure of the write that took
it, and by reset. -/
def Obligations.TokenGivenBackOnlyByReadFailureOrReset : Prop :=
  ∀ s t : State, BlockInv s → step s = .next t → s.ackPending = true → t.ackPending = false →
    StepIsReset s ∨ ∃ c, s.curOf t.active = some c ∧ t.curOf t.active = none ∧
      ((isReadOp c.op = true ∧ (c.phase = .rLock ∨ c.phase = .rRecv)) ∨
        (isWriteOp c.op = true ∧ c.phase = .wEnq ∧ c.gotToken = true ∧ c.tmo = 0))

/-- R69, R67 (a), (b): but for RESET, WIRE_OUT followed by TXQ only grows, and by one whole encoded frame at a time;
RESET loses TXQ and keeps WIRE_OUT. RX_FIFO grows at its end by one byte a step, loses its head, or is emptied (R150,
R310). -/
def Obligations.WireStreamGrowsByWholeFrames : Prop :=
  ∀ s t : State, step s = .next t →
    ((StepIsReset s ∧ t.wireOut = s.wireOut ∧ t.txq = []) ∨
      t.wireOut ++ t.txq = s.wireOut ++ s.txq ∨
      ∃ f : TxFrame, t.wireOut ++ t.txq
        = s.wireOut ++ s.txq ++ wireFrame s.cfg f.command f.identifier f.flags f.seq f.data) ∧
      (t.rxFifo = s.rxFifo ∨ (∃ b, t.rxFifo = s.rxFifo ++ [b]) ∨ (∃ b, s.rxFifo = b :: t.rxFifo) ∨ t.rxFifo = [])

/-- R71, R268: but for RESET, CAN_OUT followed by CAN_TXQ only grows at its end, and CAN_RXQ grows at its end or loses
its head to the CAN_READ that completes with it. -/
def Obligations.CanQueuesKeepArrivalOrder : Prop :=
  ∀ s t : State, step s = .next t → ¬ StepIsReset s →
    (∃ new, t.canOut ++ t.canTxq = s.canOut ++ s.canTxq ++ new ∧ new.length ≤ 1) ∧
      (t.canRxq = s.canRxq ∨ (∃ m, t.canRxq = s.canRxq ++ [m]) ∨
        ∃ m tk tk', s.canRxq = m :: t.canRxq ∧ s.tasks[t.active]? = some tk ∧ t.tasks[t.active]? = some tk' ∧
          tk'.results = tk.results ++ [⟨.ok, .canMsg m⟩])

/-- R20, R21, R212: but for RESET, NODE_ID changes only to SET_NODE_ID's operand, and TX_SEQ only by 1, in the step that
enqueues a SEND_REQUEST's frame with the old value as its sequence number. -/
def Obligations.NodeIdAndTxSeqWriters : Prop :=
  ∀ s t : State, step s = .next t → ¬ StepIsReset s →
    (t.nodeId = s.nodeId ∨ ∃ id s', fetch s = .run (.setNodeId id) s' ∧ t.nodeId = id) ∧
      (t.txSeq = s.txSeq ∨
        (t.txSeq = s.txSeq + 1 ∧ ∃ (c : Cur) (f : TxFrame), s.curOf t.active = some c ∧ isSendRequest c.op = true ∧
          writtenFrame s c.op = some f ∧ t.txq = s.txq ++ wireFrame s.cfg f.command f.identifier f.flags s.txSeq f.data))
end

