-- ==== Sys2Proof/Laws/State.lean ====
section
/-! SUPPORT. One lemma for each field of State and each named update, true by rfl: later proofs need not unfold a record
update. -/

namespace Sys2Proof.Machine

variable (s : State)

/-! ## updateActive -/

@[simp] theorem State.updateActive_cfg (f : Task → Task) :
    (s.updateActive f).cfg = s.cfg := rfl

@[simp] theorem State.updateActive_nodeId (f : Task → Task) :
    (s.updateActive f).nodeId = s.nodeId := rfl

@[simp] theorem State.updateActive_txSeq (f : Task → Task) :
    (s.updateActive f).txSeq = s.txSeq := rfl

@[simp] theorem State.updateActive_txLock (f : Task → Task) :
    (s.updateActive f).txLock = s.txLock := rfl

@[simp] theorem State.updateActive_rxLock (f : Task → Task) :
    (s.updateActive f).rxLock = s.rxLock := rfl

@[simp] theorem State.updateActive_ackPending (f : Task → Task) :
    (s.updateActive f).ackPending = s.ackPending := rfl

@[simp] theorem State.updateActive_expSeq (f : Task → Task) :
    (s.updateActive f).expSeq = s.expSeq := rfl

@[simp] theorem State.updateActive_expId (f : Task → Task) :
    (s.updateActive f).expId = s.expId := rfl

@[simp] theorem State.updateActive_rxFifo (f : Task → Task) :
    (s.updateActive f).rxFifo = s.rxFifo := rfl

@[simp] theorem State.updateActive_rxErrPending (f : Task → Task) :
    (s.updateActive f).rxErrPending = s.rxErrPending := rfl

@[simp] theorem State.updateActive_rxBuf (f : Task → Task) :
    (s.updateActive f).rxBuf = s.rxBuf := rfl

@[simp] theorem State.updateActive_txq (f : Task → Task) :
    (s.updateActive f).txq = s.txq := rfl

@[simp] theorem State.updateActive_canLock (f : Task → Task) :
    (s.updateActive f).canLock = s.canLock := rfl

@[simp] theorem State.updateActive_canRxq (f : Task → Task) :
    (s.updateActive f).canRxq = s.canRxq := rfl

@[simp] theorem State.updateActive_canTxq (f : Task → Task) :
    (s.updateActive f).canTxq = s.canTxq := rfl

@[simp] theorem State.updateActive_canRxDrops (f : Task → Task) :
    (s.updateActive f).canRxDrops = s.canRxDrops := rfl

@[simp] theorem State.updateActive_tasks (f : Task → Task) :
    (s.updateActive f).tasks = s.tasks.modify s.active f := rfl

@[simp] theorem State.updateActive_wireOut (f : Task → Task) :
    (s.updateActive f).wireOut = s.wireOut := rfl

@[simp] theorem State.updateActive_canOut (f : Task → Task) :
    (s.updateActive f).canOut = s.canOut := rfl

@[simp] theorem State.updateActive_active (f : Task → Task) :
    (s.updateActive f).active = s.active := rfl

@[simp] theorem State.updateActive_turns (f : Task → Task) :
    (s.updateActive f).turns = s.turns := rfl

@[simp] theorem State.updateActive_draws (f : Task → Task) :
    (s.updateActive f).draws = s.draws := rfl

/-! ## setCur -/

@[simp] theorem State.setCur_cfg (c : Cur) :
    (s.setCur c).cfg = s.cfg := rfl

@[simp] theorem State.setCur_nodeId (c : Cur) :
    (s.setCur c).nodeId = s.nodeId := rfl

@[simp] theorem State.setCur_txSeq (c : Cur) :
    (s.setCur c).txSeq = s.txSeq := rfl

@[simp] theorem State.setCur_txLock (c : Cur) :
    (s.setCur c).txLock = s.txLock := rfl

@[simp] theorem State.setCur_rxLock (c : Cur) :
    (s.setCur c).rxLock = s.rxLock := rfl

@[simp] theorem State.setCur_ackPending (c : Cur) :
    (s.setCur c).ackPending = s.ackPending := rfl

@[simp] theorem State.setCur_expSeq (c : Cur) :
    (s.setCur c).expSeq = s.expSeq := rfl

@[simp] theorem State.setCur_expId (c : Cur) :
    (s.setCur c).expId = s.expId := rfl

@[simp] theorem State.setCur_rxFifo (c : Cur) :
    (s.setCur c).rxFifo = s.rxFifo := rfl

@[simp] theorem State.setCur_rxErrPending (c : Cur) :
    (s.setCur c).rxErrPending = s.rxErrPending := rfl

@[simp] theorem State.setCur_rxBuf (c : Cur) :
    (s.setCur c).rxBuf = s.rxBuf := rfl

@[simp] theorem State.setCur_txq (c : Cur) :
    (s.setCur c).txq = s.txq := rfl

@[simp] theorem State.setCur_canLock (c : Cur) :
    (s.setCur c).canLock = s.canLock := rfl

@[simp] theorem State.setCur_canRxq (c : Cur) :
    (s.setCur c).canRxq = s.canRxq := rfl

@[simp] theorem State.setCur_canTxq (c : Cur) :
    (s.setCur c).canTxq = s.canTxq := rfl

@[simp] theorem State.setCur_canRxDrops (c : Cur) :
    (s.setCur c).canRxDrops = s.canRxDrops := rfl

@[simp] theorem State.setCur_tasks (c : Cur) :
    (s.setCur c).tasks = s.tasks.modify s.active fun tk => { tk with cur := some c } := rfl

@[simp] theorem State.setCur_wireOut (c : Cur) :
    (s.setCur c).wireOut = s.wireOut := rfl

@[simp] theorem State.setCur_canOut (c : Cur) :
    (s.setCur c).canOut = s.canOut := rfl

@[simp] theorem State.setCur_active (c : Cur) :
    (s.setCur c).active = s.active := rfl

@[simp] theorem State.setCur_turns (c : Cur) :
    (s.setCur c).turns = s.turns := rfl

@[simp] theorem State.setCur_draws (c : Cur) :
    (s.setCur c).draws = s.draws := rfl

/-! ## begin -/

@[simp] theorem State.begin_cfg (op : Instr) (ph : Phase) (T : U32) (sub : Sub) :
    (s.begin op ph T sub).cfg = s.cfg := rfl

@[simp] theorem State.begin_nodeId (op : Instr) (ph : Phase) (T : U32) (sub : Sub) :
    (s.begin op ph T sub).nodeId = s.nodeId := rfl

@[simp] theorem State.begin_txSeq (op : Instr) (ph : Phase) (T : U32) (sub : Sub) :
    (s.begin op ph T sub).txSeq = s.txSeq := rfl

@[simp] theorem State.begin_txLock (op : Instr) (ph : Phase) (T : U32) (sub : Sub) :
    (s.begin op ph T sub).txLock = s.txLock := rfl

@[simp] theorem State.begin_rxLock (op : Instr) (ph : Phase) (T : U32) (sub : Sub) :
    (s.begin op ph T sub).rxLock = s.rxLock := rfl

@[simp] theorem State.begin_ackPending (op : Instr) (ph : Phase) (T : U32) (sub : Sub) :
    (s.begin op ph T sub).ackPending = s.ackPending := rfl

@[simp] theorem State.begin_expSeq (op : Instr) (ph : Phase) (T : U32) (sub : Sub) :
    (s.begin op ph T sub).expSeq = s.expSeq := rfl

@[simp] theorem State.begin_expId (op : Instr) (ph : Phase) (T : U32) (sub : Sub) :
    (s.begin op ph T sub).expId = s.expId := rfl

@[simp] theorem State.begin_rxFifo (op : Instr) (ph : Phase) (T : U32) (sub : Sub) :
    (s.begin op ph T sub).rxFifo = s.rxFifo := rfl

@[simp] theorem State.begin_rxErrPending (op : Instr) (ph : Phase) (T : U32) (sub : Sub) :
    (s.begin op ph T sub).rxErrPending = s.rxErrPending := rfl

@[simp] theorem State.begin_rxBuf (op : Instr) (ph : Phase) (T : U32) (sub : Sub) :
    (s.begin op ph T sub).rxBuf = s.rxBuf := rfl

@[simp] theorem State.begin_txq (op : Instr) (ph : Phase) (T : U32) (sub : Sub) :
    (s.begin op ph T sub).txq = s.txq := rfl

@[simp] theorem State.begin_canLock (op : Instr) (ph : Phase) (T : U32) (sub : Sub) :
    (s.begin op ph T sub).canLock = s.canLock := rfl

@[simp] theorem State.begin_canRxq (op : Instr) (ph : Phase) (T : U32) (sub : Sub) :
    (s.begin op ph T sub).canRxq = s.canRxq := rfl

@[simp] theorem State.begin_canTxq (op : Instr) (ph : Phase) (T : U32) (sub : Sub) :
    (s.begin op ph T sub).canTxq = s.canTxq := rfl

@[simp] theorem State.begin_canRxDrops (op : Instr) (ph : Phase) (T : U32) (sub : Sub) :
    (s.begin op ph T sub).canRxDrops = s.canRxDrops := rfl

@[simp] theorem State.begin_tasks (op : Instr) (ph : Phase) (T : U32) (sub : Sub) :
    (s.begin op ph T sub).tasks = s.tasks.modify s.active fun tk => { tk with cur := some ⟨op, ph, T, false, sub⟩ } := rfl

@[simp] theorem State.begin_wireOut (op : Instr) (ph : Phase) (T : U32) (sub : Sub) :
    (s.begin op ph T sub).wireOut = s.wireOut := rfl

@[simp] theorem State.begin_canOut (op : Instr) (ph : Phase) (T : U32) (sub : Sub) :
    (s.begin op ph T sub).canOut = s.canOut := rfl

@[simp] theorem State.begin_active (op : Instr) (ph : Phase) (T : U32) (sub : Sub) :
    (s.begin op ph T sub).active = s.active := rfl

@[simp] theorem State.begin_turns (op : Instr) (ph : Phase) (T : U32) (sub : Sub) :
    (s.begin op ph T sub).turns = s.turns := rfl

@[simp] theorem State.begin_draws (op : Instr) (ph : Phase) (T : U32) (sub : Sub) :
    (s.begin op ph T sub).draws = s.draws := rfl

/-! ## complete -/

@[simp] theorem State.complete_cfg (st : Status) (r : ResultRecord) :
    (s.complete st r).cfg = s.cfg := rfl

@[simp] theorem State.complete_nodeId (st : Status) (r : ResultRecord) :
    (s.complete st r).nodeId = s.nodeId := rfl

@[simp] theorem State.complete_txSeq (st : Status) (r : ResultRecord) :
    (s.complete st r).txSeq = s.txSeq := rfl

@[simp] theorem State.complete_txLock (st : Status) (r : ResultRecord) :
    (s.complete st r).txLock = s.txLock := rfl

@[simp] theorem State.complete_rxLock (st : Status) (r : ResultRecord) :
    (s.complete st r).rxLock = s.rxLock := rfl

@[simp] theorem State.complete_ackPending (st : Status) (r : ResultRecord) :
    (s.complete st r).ackPending = s.ackPending := rfl

@[simp] theorem State.complete_expSeq (st : Status) (r : ResultRecord) :
    (s.complete st r).expSeq = s.expSeq := rfl

@[simp] theorem State.complete_expId (st : Status) (r : ResultRecord) :
    (s.complete st r).expId = s.expId := rfl

@[simp] theorem State.complete_rxFifo (st : Status) (r : ResultRecord) :
    (s.complete st r).rxFifo = s.rxFifo := rfl

@[simp] theorem State.complete_rxErrPending (st : Status) (r : ResultRecord) :
    (s.complete st r).rxErrPending = s.rxErrPending := rfl

@[simp] theorem State.complete_rxBuf (st : Status) (r : ResultRecord) :
    (s.complete st r).rxBuf = s.rxBuf := rfl

@[simp] theorem State.complete_txq (st : Status) (r : ResultRecord) :
    (s.complete st r).txq = s.txq := rfl

@[simp] theorem State.complete_canLock (st : Status) (r : ResultRecord) :
    (s.complete st r).canLock = s.canLock := rfl

@[simp] theorem State.complete_canRxq (st : Status) (r : ResultRecord) :
    (s.complete st r).canRxq = s.canRxq := rfl

@[simp] theorem State.complete_canTxq (st : Status) (r : ResultRecord) :
    (s.complete st r).canTxq = s.canTxq := rfl

@[simp] theorem State.complete_canRxDrops (st : Status) (r : ResultRecord) :
    (s.complete st r).canRxDrops = s.canRxDrops := rfl

@[simp] theorem State.complete_tasks (st : Status) (r : ResultRecord) :
    (s.complete st r).tasks = s.tasks.modify s.active fun tk =>
      { tk with tpc := tk.tpc + 1, cur := none, results := tk.results ++ [⟨st, r⟩] } := rfl

@[simp] theorem State.complete_wireOut (st : Status) (r : ResultRecord) :
    (s.complete st r).wireOut = s.wireOut := rfl

@[simp] theorem State.complete_canOut (st : Status) (r : ResultRecord) :
    (s.complete st r).canOut = s.canOut := rfl

@[simp] theorem State.complete_active (st : Status) (r : ResultRecord) :
    (s.complete st r).active = s.active := rfl

@[simp] theorem State.complete_turns (st : Status) (r : ResultRecord) :
    (s.complete st r).turns = s.turns := rfl

@[simp] theorem State.complete_draws (st : Status) (r : ResultRecord) :
    (s.complete st r).draws = s.draws := rfl

/-! ## completeDraw -/

@[simp] theorem State.completeDraw_cfg (st : Status) :
    (s.completeDraw st).cfg = s.cfg := rfl

@[simp] theorem State.completeDraw_nodeId (st : Status) :
    (s.completeDraw st).nodeId = s.nodeId := rfl

@[simp] theorem State.completeDraw_txSeq (st : Status) :
    (s.completeDraw st).txSeq = s.txSeq := rfl

@[simp] theorem State.completeDraw_txLock (st : Status) :
    (s.completeDraw st).txLock = s.txLock := rfl

@[simp] theorem State.completeDraw_rxLock (st : Status) :
    (s.completeDraw st).rxLock = s.rxLock := rfl

@[simp] theorem State.completeDraw_ackPending (st : Status) :
    (s.completeDraw st).ackPending = s.ackPending := rfl

@[simp] theorem State.completeDraw_expSeq (st : Status) :
    (s.completeDraw st).expSeq = s.expSeq := rfl

@[simp] theorem State.completeDraw_expId (st : Status) :
    (s.completeDraw st).expId = s.expId := rfl

@[simp] theorem State.completeDraw_rxFifo (st : Status) :
    (s.completeDraw st).rxFifo = s.rxFifo := rfl

@[simp] theorem State.completeDraw_rxErrPending (st : Status) :
    (s.completeDraw st).rxErrPending = s.rxErrPending := rfl

@[simp] theorem State.completeDraw_rxBuf (st : Status) :
    (s.completeDraw st).rxBuf = s.rxBuf := rfl

@[simp] theorem State.completeDraw_txq (st : Status) :
    (s.completeDraw st).txq = s.txq := rfl

@[simp] theorem State.completeDraw_canLock (st : Status) :
    (s.completeDraw st).canLock = s.canLock := rfl

@[simp] theorem State.completeDraw_canRxq (st : Status) :
    (s.completeDraw st).canRxq = s.canRxq := rfl

@[simp] theorem State.completeDraw_canTxq (st : Status) :
    (s.completeDraw st).canTxq = s.canTxq := rfl

@[simp] theorem State.completeDraw_canRxDrops (st : Status) :
    (s.completeDraw st).canRxDrops = s.canRxDrops := rfl

@[simp] theorem State.completeDraw_tasks (st : Status) :
    (s.completeDraw st).tasks = s.tasks.modify s.active fun tk =>
      { tk with tpc := tk.tpc + 1, cur := none,
                results := tk.results ++ [⟨st, .payload (Config.anyPayload s.draws)⟩] } := rfl

@[simp] theorem State.completeDraw_wireOut (st : Status) :
    (s.completeDraw st).wireOut = s.wireOut := rfl

@[simp] theorem State.completeDraw_canOut (st : Status) :
    (s.completeDraw st).canOut = s.canOut := rfl

@[simp] theorem State.completeDraw_active (st : Status) :
    (s.completeDraw st).active = s.active := rfl

@[simp] theorem State.completeDraw_turns (st : Status) :
    (s.completeDraw st).turns = s.turns := rfl

@[simp] theorem State.completeDraw_draws (st : Status) :
    (s.completeDraw st).draws = s.draws + 1 := rfl

/-! ## flush -/

@[simp] theorem State.flush_cfg :
    (s.flush).cfg = s.cfg := rfl

@[simp] theorem State.flush_nodeId :
    (s.flush).nodeId = s.nodeId := rfl

@[simp] theorem State.flush_txSeq :
    (s.flush).txSeq = s.txSeq := rfl

@[simp] theorem State.flush_txLock :
    (s.flush).txLock = s.txLock := rfl

@[simp] theorem State.flush_rxLock :
    (s.flush).rxLock = s.rxLock := rfl

@[simp] theorem State.flush_ackPending :
    (s.flush).ackPending = s.ackPending := rfl

@[simp] theorem State.flush_expSeq :
    (s.flush).expSeq = s.expSeq := rfl

@[simp] theorem State.flush_expId :
    (s.flush).expId = s.expId := rfl

@[simp] theorem State.flush_rxFifo :
    (s.flush).rxFifo = [] := rfl

@[simp] theorem State.flush_rxErrPending :
    (s.flush).rxErrPending = false := rfl

@[simp] theorem State.flush_rxBuf :
    (s.flush).rxBuf = [] := rfl

@[simp] theorem State.flush_txq :
    (s.flush).txq = s.txq := rfl

@[simp] theorem State.flush_canLock :
    (s.flush).canLock = s.canLock := rfl

@[simp] theorem State.flush_canRxq :
    (s.flush).canRxq = s.canRxq := rfl

@[simp] theorem State.flush_canTxq :
    (s.flush).canTxq = s.canTxq := rfl

@[simp] theorem State.flush_canRxDrops :
    (s.flush).canRxDrops = s.canRxDrops := rfl

@[simp] theorem State.flush_tasks :
    (s.flush).tasks = s.tasks := rfl

@[simp] theorem State.flush_wireOut :
    (s.flush).wireOut = s.wireOut := rfl

@[simp] theorem State.flush_canOut :
    (s.flush).canOut = s.canOut := rfl

@[simp] theorem State.flush_active :
    (s.flush).active = s.active := rfl

@[simp] theorem State.flush_turns :
    (s.flush).turns = s.turns := rfl

@[simp] theorem State.flush_draws :
    (s.flush).draws = s.draws := rfl

/-! ## takeToken -/

@[simp] theorem State.takeToken_cfg (q : Byte) (i : U16) :
    (s.takeToken q i).cfg = s.cfg := rfl

@[simp] theorem State.takeToken_nodeId (q : Byte) (i : U16) :
    (s.takeToken q i).nodeId = s.nodeId := rfl

@[simp] theorem State.takeToken_txSeq (q : Byte) (i : U16) :
    (s.takeToken q i).txSeq = s.txSeq := rfl

@[simp] theorem State.takeToken_txLock (q : Byte) (i : U16) :
    (s.takeToken q i).txLock = s.txLock := rfl

@[simp] theorem State.takeToken_rxLock (q : Byte) (i : U16) :
    (s.takeToken q i).rxLock = s.rxLock := rfl

@[simp] theorem State.takeToken_ackPending (q : Byte) (i : U16) :
    (s.takeToken q i).ackPending = true := rfl

@[simp] theorem State.takeToken_expSeq (q : Byte) (i : U16) :
    (s.takeToken q i).expSeq = q := rfl

@[simp] theorem State.takeToken_expId (q : Byte) (i : U16) :
    (s.takeToken q i).expId = i := rfl

@[simp] theorem State.takeToken_rxFifo (q : Byte) (i : U16) :
    (s.takeToken q i).rxFifo = s.rxFifo := rfl

@[simp] theorem State.takeToken_rxErrPending (q : Byte) (i : U16) :
    (s.takeToken q i).rxErrPending = s.rxErrPending := rfl

@[simp] theorem State.takeToken_rxBuf (q : Byte) (i : U16) :
    (s.takeToken q i).rxBuf = s.rxBuf := rfl

@[simp] theorem State.takeToken_txq (q : Byte) (i : U16) :
    (s.takeToken q i).txq = s.txq := rfl

@[simp] theorem State.takeToken_canLock (q : Byte) (i : U16) :
    (s.takeToken q i).canLock = s.canLock := rfl

@[simp] theorem State.takeToken_canRxq (q : Byte) (i : U16) :
    (s.takeToken q i).canRxq = s.canRxq := rfl

@[simp] theorem State.takeToken_canTxq (q : Byte) (i : U16) :
    (s.takeToken q i).canTxq = s.canTxq := rfl

@[simp] theorem State.takeToken_canRxDrops (q : Byte) (i : U16) :
    (s.takeToken q i).canRxDrops = s.canRxDrops := rfl

@[simp] theorem State.takeToken_tasks (q : Byte) (i : U16) :
    (s.takeToken q i).tasks = s.tasks := rfl

@[simp] theorem State.takeToken_wireOut (q : Byte) (i : U16) :
    (s.takeToken q i).wireOut = s.wireOut := rfl

@[simp] theorem State.takeToken_canOut (q : Byte) (i : U16) :
    (s.takeToken q i).canOut = s.canOut := rfl

@[simp] theorem State.takeToken_active (q : Byte) (i : U16) :
    (s.takeToken q i).active = s.active := rfl

@[simp] theorem State.takeToken_turns (q : Byte) (i : U16) :
    (s.takeToken q i).turns = s.turns := rfl

@[simp] theorem State.takeToken_draws (q : Byte) (i : U16) :
    (s.takeToken q i).draws = s.draws := rfl

/-! ## wEnq -/

@[simp] theorem State.wEnq_cfg (f : TxFrame) :
    (s.wEnq f).cfg = s.cfg := rfl

@[simp] theorem State.wEnq_nodeId (f : TxFrame) :
    (s.wEnq f).nodeId = s.nodeId := rfl

@[simp] theorem State.wEnq_txSeq (f : TxFrame) :
    (s.wEnq f).txSeq = s.txSeq := rfl

@[simp] theorem State.wEnq_txLock (f : TxFrame) :
    (s.wEnq f).txLock = none := rfl

@[simp] theorem State.wEnq_rxLock (f : TxFrame) :
    (s.wEnq f).rxLock = s.rxLock := rfl

@[simp] theorem State.wEnq_ackPending (f : TxFrame) :
    (s.wEnq f).ackPending = s.ackPending := rfl

@[simp] theorem State.wEnq_expSeq (f : TxFrame) :
    (s.wEnq f).expSeq = s.expSeq := rfl

@[simp] theorem State.wEnq_expId (f : TxFrame) :
    (s.wEnq f).expId = s.expId := rfl

@[simp] theorem State.wEnq_rxFifo (f : TxFrame) :
    (s.wEnq f).rxFifo = s.rxFifo := rfl

@[simp] theorem State.wEnq_rxErrPending (f : TxFrame) :
    (s.wEnq f).rxErrPending = s.rxErrPending := rfl

@[simp] theorem State.wEnq_rxBuf (f : TxFrame) :
    (s.wEnq f).rxBuf = s.rxBuf := rfl

@[simp] theorem State.wEnq_txq (f : TxFrame) :
    (s.wEnq f).txq = s.txq ++ frameBytes s.cfg f.command f.identifier f.flags f.seq f.data := rfl

@[simp] theorem State.wEnq_canLock (f : TxFrame) :
    (s.wEnq f).canLock = s.canLock := rfl

@[simp] theorem State.wEnq_canRxq (f : TxFrame) :
    (s.wEnq f).canRxq = s.canRxq := rfl

@[simp] theorem State.wEnq_canTxq (f : TxFrame) :
    (s.wEnq f).canTxq = s.canTxq := rfl

@[simp] theorem State.wEnq_canRxDrops (f : TxFrame) :
    (s.wEnq f).canRxDrops = s.canRxDrops := rfl

@[simp] theorem State.wEnq_tasks (f : TxFrame) :
    (s.wEnq f).tasks = s.tasks := rfl

@[simp] theorem State.wEnq_wireOut (f : TxFrame) :
    (s.wEnq f).wireOut = s.wireOut := rfl

@[simp] theorem State.wEnq_canOut (f : TxFrame) :
    (s.wEnq f).canOut = s.canOut := rfl

@[simp] theorem State.wEnq_active (f : TxFrame) :
    (s.wEnq f).active = s.active := rfl

@[simp] theorem State.wEnq_turns (f : TxFrame) :
    (s.wEnq f).turns = s.turns := rfl

@[simp] theorem State.wEnq_draws (f : TxFrame) :
    (s.wEnq f).draws = s.draws := rfl

end Sys2Proof.Machine
end

