-- ==== Sys2Proof/Laws/Ops.lean ====
section
/-! SUPPORT. For each shared operation, what it can do, said once: the later proofs cite these and do not unfold. -/

namespace Sys2Proof.Machine

/-! ## Tasks -/

theorem modify_of_getElem? {α : Type} (l : List α) (n : Nat) (f : α → α) (a : α) (h : l[n]? = some a) :
    l.modify n f = l.set n (f a) := by
  apply List.ext_getElem?
  intro m
  rw [List.getElem?_modify, List.getElem?_set]
  by_cases hm : n = m
  · subst hm
    obtain ⟨hn, ha⟩ := List.getElem?_eq_some_iff.mp h
    simp [hn, ha]
  · simp [hm]

/-- Completion of the acting task's operation, in the claims' terms. -/
theorem State.complete_eq_completed {s : State} {tk : Task} (h : s.tasks[s.active]? = some tk) (st : Status)
    (r : ResultRecord) : s.complete st r = completed s tk st r := by
  simp only [State.complete, State.updateActive, completed]
  rw [modify_of_getElem? _ _ _ _ h]

/-- A new current operation of the acting task, in the claims' terms. -/
theorem State.setCur_eq_proceeds {s : State} {tk : Task} (h : s.tasks[s.active]? = some tk) (c : Cur) :
    s.setCur c = proceeds s tk c := by
  simp only [State.setCur, State.updateActive, proceeds]
  rw [modify_of_getElem? _ _ _ _ h]

theorem State.begin_eq_proceeds {s : State} {tk : Task} (h : s.tasks[s.active]? = some tk) (op : Instr) (ph : Phase)
    (T : U32) (sub : Sub) : s.begin op ph T sub = proceeds s tk ⟨op, ph, T, false, sub⟩ :=
  State.setCur_eq_proceeds h _

theorem State.completeDraw_eq_completed {s : State} {tk : Task} (h : s.tasks[s.active]? = some tk) (st : Status) :
    s.completeDraw st
      = completed { s with draws := s.draws + 1 } tk st (.payload (Config.anyPayload s.draws)) :=
  State.complete_eq_completed (s := { s with draws := s.draws + 1 }) h _ _

/-- cur of a task after the active task's record is changed. -/
theorem State.curOf_updateActive (s : State) (f : Task → Task) (t : Nat) :
    (s.updateActive f).curOf t
      = if s.active = t then (s.tasks[t]?).bind (fun tk => (f tk).cur) else s.curOf t := by
  simp only [State.curOf, State.updateActive, List.getElem?_modify]
  by_cases h : s.active = t
  · cases s.tasks[t]? <;> simp [h]
  · simp [h]

/-! ## Turns -/

/-- The issue step of a non-blocking operation that is enabled. -/
theorem State.issueNow_of_idle {s : State} {tk : Task} (h : Idle s tk) (run : State → State) :
    s.issueNow run = run s := by
  simp [State.issueNow, State.activeTask, h.1, h.2]

/-- A non-blocking operation runs whole, or nothing happens. -/
theorem State.issueNow_cases (s : State) (run : State → State) :
    (∃ tk, Idle s tk ∧ s.issueNow run = run s) ∨ s.issueNow run = s := by
  unfold State.issueNow State.activeTask
  cases h : s.tasks[s.active]? with
  | none => exact .inr rfl
  | some tk =>
    cases hc : tk.cur with
    | none => exact .inl ⟨tk, ⟨h, hc⟩, by simp [hc]⟩
    | some c => exact .inr (by simp [hc])

theorem State.blockingTurn_of_idle {s : State} {tk : Task} (h : Idle s tk) (op : Instr) (issue : State → State)
    (progress expire : State → Cur → State) : s.blockingTurn op issue progress expire = issue s := by
  simp [State.blockingTurn, State.activeTask, h.1, h.2]

theorem State.blockingTurn_of_progress {s : State} {tk : Task} {c : Cur} (h : Running s tk c)
    (hp : progressEnabled s c = true) (issue : State → State) (progress expire : State → Cur → State) :
    s.blockingTurn c.op issue progress expire = progress s c := by
  simp [State.blockingTurn, State.activeTask, h.1, h.2, hp]

theorem State.blockingTurn_of_expire {s : State} {tk : Task} {c : Cur} (h : Running s tk c)
    (hp : progressEnabled s c = false) (ht : c.tmo = 0) (issue : State → State)
    (progress expire : State → Cur → State) : s.blockingTurn c.op issue progress expire = expire s c := by
  simp [State.blockingTurn, State.activeTask, h.1, h.2, hp, ht]

theorem State.blockingTurn_of_blocked {s : State} {tk : Task} {c : Cur} (h : Running s tk c)
    (hp : progressEnabled s c = false) (ht : c.tmo ≠ 0) (issue : State → State)
    (progress expire : State → Cur → State) : s.blockingTurn c.op issue progress expire = s := by
  simpa [State.blockingTurn, State.activeTask, h.1, h.2, hp] using fun h0 => absurd h0 ht

/-- A turn on a blocking operation issues it, progresses it, expires it, or does nothing. -/
theorem State.blockingTurn_cases (s : State) (op : Instr) (issue : State → State)
    (progress expire : State → Cur → State) :
    (∃ tk, Idle s tk ∧ s.blockingTurn op issue progress expire = issue s) ∨
      (∃ tk c, Running s tk c ∧ c.op = op ∧ progressEnabled s c = true ∧
        s.blockingTurn op issue progress expire = progress s c) ∨
      (∃ tk c, Running s tk c ∧ c.op = op ∧ progressEnabled s c = false ∧ c.tmo = 0 ∧
        s.blockingTurn op issue progress expire = expire s c) ∨
      s.blockingTurn op issue progress expire = s := by
  unfold State.blockingTurn State.activeTask
  cases h : s.tasks[s.active]? with
  | none => exact .inr (.inr (.inr rfl))
  | some tk =>
    cases hc : tk.cur with
    | none => exact .inl ⟨tk, ⟨h, hc⟩, by simp [hc]⟩
    | some c =>
      by_cases ho : c.op = op
      · by_cases hp : progressEnabled s c = true
        · exact .inr (.inl ⟨tk, c, ⟨h, hc⟩, ho, hp, by simp [hc, ho, hp]⟩)
        · have hp : progressEnabled s c = false := by simpa using hp
          by_cases ht : c.tmo = 0
          · exact .inr (.inr (.inl ⟨tk, c, ⟨h, hc⟩, ho, hp, ht, by simp [hc, ho, hp, ht]⟩))
          · exact .inr (.inr (.inr (by simpa [hc, ho, hp] using fun h0 => absurd h0 ht)))
      · exact .inr (.inr (.inr (by simp [hc, ho])))

/-! ## Token and queues -/

theorem State.tokenOnRead_eq (s : State) (st : Status) (m : Bool) :
    s.tokenOnRead st m
      = { s with ackPending := if st = .ok ∧ s.cfg.seqStrict = true ∧ m = false then s.ackPending else false } := by
  unfold State.tokenOnRead
  by_cases h : st = .ok
  · cases hs : s.cfg.seqStrict <;> cases m <;> simp [h]
  · simp [h]

/-- rFail: flush, RX_LOCK and token given back, then the failure. -/
theorem State.rFail_eq (s : State) (fail : State → Status → State) (e : Status) (he : e ≠ .ok) :
    s.rFail fail e = fail (readDropped s) e := by
  simp [State.rFail, State.tokenOnRead, he, State.flush, readDropped]

/-- A received byte is queued, or leaves a pending error. -/
theorem State.receiveByte_cases (s : State) (b : Byte) :
    (s.rxFifo.length < s.cfg.rxFifoDepth ∧ s.receiveByte b = { s with rxFifo := s.rxFifo ++ [b] }) ∨
      (s.cfg.rxFifoDepth ≤ s.rxFifo.length ∧ s.receiveByte b = { s with rxErrPending := true }) := by
  by_cases h : s.rxFifo.length < s.cfg.rxFifoDepth
  · exact .inl ⟨h, by simp [State.receiveByte, h]⟩
  · exact .inr ⟨by omega, by simp [State.receiveByte, h]⟩

/-- What a received byte leaves: RX_FIFO as it was, or one byte longer and within its depth. -/
theorem State.receiveByte_eq (s : State) (b : Byte) :
    ∃ fifo err, s.receiveByte b = { s with rxFifo := fifo, rxErrPending := err } ∧
      (fifo = s.rxFifo ∨ fifo = s.rxFifo ++ [b] ∧ s.rxFifo.length < s.cfg.rxFifoDepth) := by
  rcases s.receiveByte_cases b with ⟨hl, he⟩ | ⟨_, he⟩
  · exact ⟨_, _, he, .inr ⟨rfl, hl⟩⟩
  · exact ⟨_, _, he, .inl rfl⟩

@[simp] theorem State.deliver_nil (s : State) : s.deliver [] = s := rfl

@[simp] theorem State.deliver_cons (s : State) (b : Byte) (rest : List Byte) :
    s.deliver (b :: rest) = { s.receiveByte b with turns := byteTurns rest ++ s.turns } := rfl

/-! ## What an operation sends -/

theorem writtenFrame_isSome (s : State) (op : Instr) : (writtenFrame s op).isSome = isWriteOp op := by cases op <;> rfl

/-- Of SEND_REQUEST's frame TX_SEQ is the sequence number (R212). -/
theorem writtenFrame_seq {s : State} {op : Instr} {f : TxFrame} (h : writtenFrame s op = some f)
    (ho : isSendRequest op = true) : f.seq = s.txSeq := by
  cases op <;> simp [isSendRequest] at ho
  cases h
  rfl

/-! ## The wire format -/

theorem foldl_xor (s : Byte) (bs : List Byte) : bs.foldl (· ^^^ ·) s = s ^^^ bs.foldr (· ^^^ ·) 0 := by
  induction bs generalizing s with
  | nil => simp
  | cons b bs ih => rw [List.foldl_cons, ih, List.foldr_cons, BitVec.xor_assoc]

theorem xorfold_eq (s : Byte) (bs : List Byte) : xorfold s bs = s ^^^ bs.foldr (· ^^^ ·) 0 := foldl_xor s bs

/-- R121: the checksum function is its closed form, under either byte order. -/
theorem csum_eq_closedCsum (c : Config) (command : Byte) (identifier flags length : U16) (seq : Byte)
    (data : List Byte) :
    csum c command identifier flags length seq data = closedCsum c command identifier flags length seq data := by
  cases h : c.wireOrder <;>
    simp only [csum, closedCsum, xorfold_eq, wr16, h, List.foldr_cons, List.cons_append, List.nil_append] <;> ac_rfl

/-- The emitted bytes are the table of R80. -/
theorem frameBytes_eq_wireFrame (c : Config) (command : Byte) (identifier flags : U16) (seq : Byte)
    (data : List Byte) :
    frameBytes c command identifier flags seq data = wireFrame c command identifier flags seq data := by
  cases h : c.wireOrder <;> simp [frameBytes, wireFrame, frameWith, csum_eq_closedCsum, wr16, h, lengthOf]

/-! ## The step -/

/-- What a step that answers a next state did. -/
theorem step_cases {s t : State} (h : step s = .next t) :
    fetch s = .idle t ∨ (∃ i s', fetch s = .run i s' ∧ exec i s' = .next t) ∨
      (∃ s', fetch s = .illegal s' ∧ t = s'.issueIllegal) ∨
      ∃ bytes s', fetch s = .raw bytes s' ∧ t = s'.deliver bytes := by
  unfold step at h
  cases hf : fetch s with
  | idle s' => rw [hf] at h; cases h; exact .inl rfl
  | run i s' => rw [hf] at h; exact .inr (.inl ⟨i, s', rfl, h⟩)
  | illegal s' => rw [hf] at h; cases h; exact .inr (.inr (.inl ⟨s', rfl, rfl⟩))
  | raw bytes s' => rw [hf] at h; cases h; exact .inr (.inr (.inr ⟨bytes, s', rfl, rfl⟩))
  | refuse r => rw [hf] at h; cases h

/-- A turn of SerialRxWire delivers its byte. -/
theorem step_of_byteTurn {s : State} {b : Byte} {rest : List Turn} (h : s.turns = .env [0x80, b] :: rest) :
    step s = .next (State.receiveByte { s with turns := rest } b) := by
  simp only [step, fetch, h]
  rfl

/-- Fetching changes only which task is active and which turns are left. -/
theorem fetch_state {s : State} :
    ∃ a ts, ∀ s', (fetch s = .idle s' ∨ (∃ i, fetch s = .run i s') ∨ fetch s = .illegal s' ∨
      ∃ bytes, fetch s = .raw bytes s') → s' = { s with active := a, turns := ts } := by
  unfold fetch
  split
  · exact ⟨s.active, s.turns, fun s' h => by simp at h; exact h.symm⟩
  · rename_i n rest _
    refine ⟨n, rest, fun s' h => ?_⟩
    unfold fetchTask at h
    split at h
    · simp at h; exact h.symm
    · split at h
      · simp at h; exact h.symm
      · split at h <;> simp at h <;> exact h.symm
  · rename_i d rest _
    refine ⟨s.active, rest, fun s' h => ?_⟩
    unfold fetchEnvironment at h
    split at h <;> simp at h <;> exact h.symm

end Sys2Proof.Machine
end

