-- ==== Sys2Proof/Laws/Codec.lean ====
section
/-! SUPPORT. The wire format and the decoder step, said once: what the fields, the check and the record of a frame's bytes
are, and what one byte does to the decoder, for the bytes of frameWith (R80, R82, R122, R145). -/

namespace Sys2Proof.Machine

/-- What legal parameters give. -/
theorem legal_bounds {c : Config} (h : c.legal = true) :
    c.hdrLen = 10 ∧ c.canFrameBytes = 8 ∧ c.maxPayload ≤ 65535 ∧ 1 ≤ c.nTasks ∧ 1 ≤ c.rxFifoDepth ∧
      c.maxFrame ≤ c.txqCap ∧ 1 ≤ c.canRxqDepth ∧ 1 ≤ c.canTxqDepth := by
  simp [Config.legal] at h
  tauto

theorem append_bytes_toNat (a b : Byte) : (a ++ b : U16).toNat = 256 * a.toNat + b.toNat := by
  have := b.isLt
  rw [BitVec.toNat_append, ← Nat.shiftLeft_add_eq_or_of_lt this, Nat.shiftLeft_eq]
  omega

/-- A u16 is its high byte before its low byte. -/
theorem append_extract16 (v : U16) : (v.extractLsb' 8 8 ++ v.extractLsb' 0 8 : U16) = v := by
  apply BitVec.eq_of_toNat_eq
  rw [append_bytes_toNat]
  simp only [BitVec.extractLsb'_toNat, Nat.shiftRight_eq_div_pow]
  have := v.isLt
  omega

theorem append4_bytes_toNat (a b c d : Byte) :
    (a ++ b ++ c ++ d : U32).toNat = 16777216 * a.toNat + 65536 * b.toNat + 256 * c.toNat + d.toNat := by
  have h1 := b.isLt
  have h2 := c.isLt
  have h3 := d.isLt
  rw [BitVec.toNat_append, ← Nat.shiftLeft_add_eq_or_of_lt h3, Nat.shiftLeft_eq, BitVec.toNat_append,
    ← Nat.shiftLeft_add_eq_or_of_lt h2, Nat.shiftLeft_eq, append_bytes_toNat]
  omega

/-- A u32 is its four bytes, the highest first. -/
theorem append_extract32 (v : U32) :
    (v.extractLsb' 24 8 ++ v.extractLsb' 16 8 ++ v.extractLsb' 8 8 ++ v.extractLsb' 0 8 : U32) = v := by
  apply BitVec.eq_of_toNat_eq
  rw [append4_bytes_toNat]
  simp only [BitVec.extractLsb'_toNat, Nat.shiftRight_eq_div_pow]
  have := v.isLt
  omega

/-- rd16 is the inverse of wr16 (R10). -/
theorem rd16_wr16 (o : WireOrder) (v : U16) : rd16 o ((wr16 o v).getD 0 0) ((wr16 o v).getD 1 0) = v := by
  cases o <;> simp [rd16, wr16, append_extract16]

/-- rd32 is the inverse of wr32 (R10). -/
theorem rd32_wr32 (o : WireOrder) (v : U32) :
    rd32 o ((wr32 o v).getD 0 0) ((wr32 o v).getD 1 0) ((wr32 o v).getD 2 0) ((wr32 o v).getD 3 0) = v := by
  cases o <;> simp [rd32, wr32, append_extract32]

@[simp] theorem ofNat16_toNat {n : Nat} (h : n ≤ 65535) : (BitVec.ofNat 16 n).toNat = n := by
  simp
  omega

/-! ## The bytes of a frame -/

theorem frameWith_length (c : Config) (cm : Byte) (i f l : U16) (q k : Byte) (d : List Byte) :
    (frameWith c cm i f l q k d).length = 10 + d.length := by
  unfold frameWith
  cases c.wireOrder <;> simp <;> omega

theorem wireFrame_length (c : Config) (cm : Byte) (i f : U16) (q : Byte) (d : List Byte) :
    (wireFrame c cm i f q d).length = 10 + d.length := by simp [wireFrame, frameWith_length]

/-- The length field of a frame's bytes, known from the tenth byte on (R82, R89). -/
theorem lengthField_frameWith_take (c : Config) (cm : Byte) (i f l : U16) (q k : Byte) (d : List Byte) {n : Nat}
    (hn : 10 ≤ n) : lengthField c ((frameWith c cm i f l q k d).take n) = l.toNat := by
  obtain ⟨m, rfl⟩ : ∃ m, n = m + 10 := ⟨n - 10, by omega⟩
  unfold lengthField frameWith rd16
  cases h : c.wireOrder <;> simp [append_extract16]

theorem lengthField_frameWith (c : Config) (cm : Byte) (i f l : U16) (q k : Byte) (d : List Byte) :
    lengthField c (frameWith c cm i f l q k d) = l.toNat := by
  unfold lengthField frameWith rd16
  cases h : c.wireOrder <;> simp [append_extract16]

/-- The check of R122 passes exactly when the checksum byte is the closed form. -/
theorem csumOk_frameWith (c : Config) (cm : Byte) (i f l : U16) (q k : Byte) (d : List Byte) :
    csumOk c (frameWith c cm i f l q k d) = decide (k = closedCsum c cm i f l q d) := by
  rw [Bool.eq_iff_iff]
  unfold csumOk closedCsum frameWith
  cases h : c.wireOrder <;> simp [xorfold_eq] <;> generalize List.foldr (fun x1 x2 => x1 ^^^ x2) (0#8) d = z <;>
    (rw [eq_comm]; apply Eq.congr_right; ac_rfl)

/-- The record of a frame's bytes (R82, R145). -/
theorem frameOf_frameWith (c : Config) (cm : Byte) (i f l : U16) (q k : Byte) (d : List Byte) :
    frameOf c (frameWith c cm i f l q k d) = ⟨cm, i, f, l, q, k, d⟩ := by
  unfold frameOf frameWith rd16
  cases h : c.wireOrder <;> simp [append_extract16]

/-- A frame that arrives is its bytes in the layout of R80. -/
theorem arrivingBytes_eq_frameWith (c : Config) (cm : Byte) (i f l : U16) (q k : Byte) (d : List Byte) :
    arrivingBytes c cm i f l q k d = frameWith c cm i f l q k d := by
  unfold arrivingBytes frameWith wr16
  cases c.wireOrder <;> rfl

/-! ## The decoder step -/

/-- A byte before the last of a legal frame is kept. -/
theorem dstep_frameWith_more {c : Config} {cm : Byte} {i f : U16} {q k : Byte} {d : List Byte} {n : Nat}
    (hl : c.legal = true) (hd : d.length ≤ c.maxPayload) (hn : n + 1 < 10 + d.length) (b : Byte)
    (hb : (frameWith c cm i f (BitVec.ofNat 16 d.length) q k d)[n]? = some b) :
    dstep c ((frameWith c cm i f (BitVec.ofNat 16 d.length) q k d).take n) b
      = .more ((frameWith c cm i f (BitVec.ofNat 16 d.length) q k d).take (n + 1)) := by
  have lb := legal_bounds hl
  obtain ⟨w, hw⟩ : ∃ w, w = frameWith c cm i f (BitVec.ofNat 16 d.length) q k d := ⟨_, rfl⟩
  have hlf : ∀ m, 10 ≤ m → lengthField c (w.take m) = d.length := by
    intro m hm
    rw [hw, lengthField_frameWith_take c cm i f _ q k d hm, ofNat16_toNat (by omega)]
  have h0 : w.getD 0 0 = c.sync := by
    rw [hw]
    unfold frameWith
    cases c.wireOrder <;> rfl
  rw [← hw] at hb ⊢
  have e : w.take n ++ [b] = w.take (n + 1) := by rw [List.take_add_one, hb]; rfl
  have ln : (w.take n).length = n := by
    have : w.length = 10 + d.length := by rw [hw, frameWith_length]
    simp
    omega
  unfold dstep
  rw [ln, e]
  by_cases hz : n = 0
  · subst hz
    have hbs : b = c.sync := by rw [← h0]; simp [List.getD, hb]
    simp only [hbs, ne_eq, not_true, if_false, if_true]
    rw [← e, hbs]
    simp
  · simp only [hz, if_false]
    by_cases h1 : n + 1 < c.hdrLen
    · simp [h1]
    · rw [hlf _ (by omega)]
      have h2 : ¬ (n + 1 = c.hdrLen ∧ d.length > c.maxPayload) := by omega
      have h3 : n + 1 < c.hdrLen + d.length := by omega
      simp only [h1, h2, h3, if_false, if_true]

/-- The last byte of a legal frame completes it, or fails its check. -/
theorem dstep_frameWith_last {c : Config} {buf : List Byte} {b cm : Byte} {i f : U16} {q k : Byte} {d : List Byte}
    (hl : c.legal = true) (hd : d.length ≤ c.maxPayload)
    (hb : buf ++ [b] = frameWith c cm i f (BitVec.ofNat 16 d.length) q k d) :
    dstep c buf b = if k = closedCsum c cm i f (BitVec.ofNat 16 d.length) q d
      then .done ⟨cm, i, f, BitVec.ofNat 16 d.length, q, k, d⟩ else .fail .checksum := by
  have lb := legal_bounds hl
  have hlen : buf.length + 1 = 10 + d.length := by simpa [frameWith_length] using congrArg List.length hb
  have hlf : lengthField c (buf ++ [b]) = d.length := by rw [hb, lengthField_frameWith, ofNat16_toNat (by omega)]
  have h0 : ¬ buf.length = 0 := by omega
  unfold dstep
  simp only [h0, if_false, hlf]
  rw [hb, csumOk_frameWith, frameOf_frameWith]
  have h1 : ¬ (buf.length + 1 < c.hdrLen) := by omega
  have h2 : ¬ (buf.length + 1 = c.hdrLen ∧ d.length > c.maxPayload) := by omega
  have h3 : ¬ (buf.length + 1 < c.hdrLen + d.length) := by omega
  simp only [h1, h2, h3, if_false, decide_eq_true_eq]

/-- A failing decoder step is one of the three failures of R146 to R148. -/
theorem dstep_fail {c : Config} {buf : List Byte} {b : Byte} {e : Status} (h : dstep c buf b = .fail e) :
    (e = .badSync ∧ buf = [] ∧ b ≠ c.sync) ∨
      (e = .frameTooLarge ∧ buf.length + 1 = c.hdrLen ∧ c.maxPayload < lengthField c (buf ++ [b])) ∨
      (e = .checksum ∧ csumOk c (buf ++ [b]) = false) := by
  unfold dstep at h
  split at h
  · rename_i hz
    split at h <;> simp at h
    rename_i hb
    exact .inl ⟨h.symm, List.length_eq_zero_iff.mp hz, hb⟩
  · simp only at h
    split at h <;> [simp at h; skip]
    split at h
    · rename_i hx
      simp at h
      exact .inr (.inl ⟨h.symm, hx.1, hx.2⟩)
    · split at h <;> [simp at h; skip]
      split at h <;> simp at h
      rename_i hx
      exact .inr (.inr ⟨h.symm, by simpa using hx⟩)

/-! ## Arrivals -/

/-- A received byte, for an RX_FIFO within its depth, in the claims' terms (R195). -/
theorem receiveByte_eq_arrived {s : State} (h : s.rxFifo.length ≤ s.cfg.rxFifoDepth) (b : Byte) :
    s.receiveByte b = arrived s [b] := by
  rcases s.receiveByte_cases b with ⟨hl, he⟩ | ⟨hl, he⟩
  · rw [he, arrived, List.take_of_length_le (by simp; omega), decide_eq_false (by simp; omega), Bool.or_false]
  · rw [he, arrived, List.take_append, List.take_of_length_le h, decide_eq_true (by simp; omega)]
    simp [show s.cfg.rxFifoDepth - s.rxFifo.length = 0 by omega]

theorem arrived_within (s : State) (bs : List Byte) : (arrived s bs).rxFifo.length ≤ (arrived s bs).cfg.rxFifoDepth := by
  simp only [arrived, List.length_take]
  omega

@[simp] theorem arrived_nil {s : State} (h : s.rxFifo.length ≤ s.cfg.rxFifoDepth) : arrived s [] = s := by
  simp only [arrived, List.append_nil, List.take_of_length_le h, List.length_nil, Nat.add_zero]
  rw [decide_eq_false (by omega), Bool.or_false]

/-- Bytes that arrive after others are one run of bytes. -/
theorem arrived_arrived {s : State} (h : s.rxFifo.length ≤ s.cfg.rxFifoDepth) (as bs : List Byte) :
    arrived (arrived s as) bs = arrived s (as ++ bs) := by
  unfold arrived
  simp only [List.length_take, List.length_append, State.mk.injEq, true_and, and_true]
  refine ⟨?_, ?_⟩
  · simp only [List.take_append, List.length_take, List.take_take, List.append_assoc]
    congr 2 <;> congr 1 <;> omega
  · rw [Bool.or_assoc]
    congr 1
    by_cases hl : s.cfg.rxFifoDepth < s.rxFifo.length + as.length
    · simp [hl]
      omega
    · simp [hl]
      omega

end Sys2Proof.Machine
end

