-- ==== Sys2Proof/Laws/Decode.lean ====
section
/-! SUPPORT. The serialisation of the arguments (log 5), value by value: each reader takes back what its writer wrote, and
what a reader takes is what its writer writes. The laws of whole instructions are assembled from these. -/

namespace Sys2Proof

open Machine

@[simp] theorem ok_bind {α β : Type} (a : α) (f : α → Except DecodeError β) : (Except.ok a >>= f) = f a := rfl

/-- A reader made of two parts succeeds only when both do. -/
theorem bind_ok {α β : Type} {x : Except DecodeError α} {f : α → Except DecodeError β} {b : β}
    (h : (x >>= f) = .ok b) : ∃ a, x = .ok a ∧ f a = .ok b := by
  cases x with
  | error e => cases h
  | ok a => exact ⟨a, rfl, h⟩

/-! ## Reading what was written -/

theorem readU8_cons (b : Byte) (r : List Byte) : readU8 (b :: r) = .ok (b, r) := rfl

theorem readU16_putU16 (v : U16) (r : List Byte) : readU16 (putU16 v ++ r) = .ok (v, r) := by
  simp [readU16, putU16, append_extract16]

theorem readU32_putU32 (v : U32) (r : List Byte) : readU32 (putU32 v ++ r) = .ok (v, r) := by
  simp [readU32, putU32, append_extract32]

theorem readBytes_putBytes (b r : List Byte) : readBytes (putBytes b ++ r) = .ok (b, r) := by
  induction b with
  | nil => cases r <;> rfl
  | cons x b ih =>
    show (readBytes (putBytes b ++ r) >>= fun v => Except.ok (x :: v.1, v.2)) = _
    rw [ih, ok_bind]

theorem readBool_putBool (b : Bool) (r : List Byte) : readBool (putBool b ++ r) = .ok (b, r) := by cases b <;> rfl

theorem readErr_putErr (e : Option Byte) (r : List Byte) : readErr (putErr e ++ r) = .ok (e, r) := by cases e <;> rfl

theorem readLen_putLen (l : BitVec 4) (r : List Byte) : readLen (putLen l ++ r) = .ok (l, r) := by
  simp [readLen, putLen, readU8]
  have := l.isLt
  omega

theorem readBytes8_putBytes8 (d : Bytes8) (r : List Byte) : readBytes8 (putBytes8 d ++ r) = .ok (d, r) := rfl

theorem readCanMsg_putCanMsg (m : CanMsg) (r : List Byte) : readCanMsg (putCanMsg m ++ r) = .ok (m, r) := by
  simp only [readCanMsg, putCanMsg, List.append_assoc, readU32_putU32, readLen_putLen, readBytes8_putBytes8, ok_bind]

theorem readFrameArgs_putFrameArgs (command : Byte) (identifier flags : U16) (seq : Byte) (data r : List Byte) :
    readFrameArgs (putFrameArgs command identifier flags seq data ++ r)
      = .ok ((command, identifier, flags, seq, data), r) := by
  simp only [readFrameArgs, putFrameArgs, List.append_assoc, List.cons_append, List.nil_append, readU8_cons,
    readU16_putU16, readBytes_putBytes, ok_bind]

/-! ## What a reader takes -/

theorem of_readU8 {d r : List Byte} {v : Byte} (h : readU8 d = .ok (v, r)) : v :: r = d := by
  cases d <;> simp [readU8] at h
  simp [h]

theorem of_readU16 {d r : List Byte} {v : U16} (h : readU16 d = .ok (v, r)) : putU16 v ++ r = d := by
  unfold readU16 at h
  split at h <;> simp at h
  obtain ⟨rfl, rfl⟩ := h
  simp only [putU16, List.cons_append, List.nil_append, List.cons.injEq, and_true]
  refine ⟨?_, ?_⟩ <;> apply BitVec.eq_of_toNat_eq <;>
    simp only [BitVec.extractLsb'_toNat, append_bytes_toNat, Nat.shiftRight_eq_div_pow] <;> bv_omega

theorem of_readU32 {d r : List Byte} {v : U32} (h : readU32 d = .ok (v, r)) : putU32 v ++ r = d := by
  unfold readU32 at h
  split at h <;> simp at h
  obtain ⟨rfl, rfl⟩ := h
  simp only [putU32, List.cons_append, List.nil_append, List.cons.injEq, and_true]
  refine ⟨?_, ?_, ?_, ?_⟩ <;> apply BitVec.eq_of_toNat_eq <;>
    simp only [BitVec.extractLsb'_toNat, append4_bytes_toNat, Nat.shiftRight_eq_div_pow] <;> bv_omega

theorem of_readRun {n : Nat} {d v r : List Byte} (h : readRun n d = .ok (v, r)) : v ++ r = d ∧ v.length = n := by
  unfold readRun at h
  split at h <;> simp at h
  obtain ⟨rfl, rfl⟩ := h
  simp
  omega

theorem of_readBytes {d v r : List Byte} (h : readBytes d = .ok (v, r)) : putBytes v ++ r = d := by
  induction d using readBytes.induct generalizing v with
  | case1 => cases h
  | case2 => cases h; rfl
  | case3 => cases h
  | case4 => simp_all [readBytes]
  | case5 => cases h; rfl
  | case6 b d _ ih =>
    obtain ⟨⟨bs, r'⟩, h1, h2⟩ := bind_ok (show (readBytes d >>= fun v => Except.ok (b :: v.1, v.2)) = _ from h)
    cases h2
    simp [putBytes, ih h1]
  | case7 => simp_all [readBytes]

theorem of_readBool {d r : List Byte} {v : Bool} (h : readBool d = .ok (v, r)) : putBool v ++ r = d := by
  unfold readBool at h
  obtain ⟨⟨b, r'⟩, h1, h2⟩ := bind_ok h
  have h3 := of_readU8 h1
  simp only at h2
  split at h2
  · rename_i hb
    simp at h2
    obtain ⟨rfl, rfl⟩ := h2
    simp [putBool, ← h3, hb]
  · split at h2
    · rename_i hb
      simp at h2
      obtain ⟨rfl, rfl⟩ := h2
      simp [putBool, ← h3, hb]
    · cases h2

theorem of_readErr {d r : List Byte} {v : Option Byte} (h : readErr d = .ok (v, r)) : putErr v ++ r = d := by
  unfold readErr at h
  obtain ⟨⟨b, r'⟩, h1, h2⟩ := bind_ok h
  have h3 := of_readBool h1
  cases b
  · simp at h2
    obtain ⟨rfl, rfl⟩ := h2
    exact h3
  · simp only [if_true] at h2
    obtain ⟨⟨e, r''⟩, h4, h5⟩ := bind_ok h2
    simp at h5
    obtain ⟨rfl, rfl⟩ := h5
    have h6 := of_readU8 h4
    subst h6
    simpa [putErr] using h3

theorem of_readLen {d r : List Byte} {v : BitVec 4} (h : readLen d = .ok (v, r)) : putLen v ++ r = d := by
  unfold readLen at h
  obtain ⟨⟨b, r'⟩, h1, h2⟩ := bind_ok h
  have h3 := of_readU8 h1
  subst h3
  simp only at h2
  split at h2 <;> simp at h2
  obtain ⟨rfl, rfl⟩ := h2
  simp [putLen]
  bv_omega

theorem of_readBytes8 {d r : List Byte} {v : Bytes8} (h : readBytes8 d = .ok (v, r)) : putBytes8 v ++ r = d := by
  unfold readBytes8 at h
  split at h <;> simp at h
  obtain ⟨rfl, rfl⟩ := h
  rfl

end Sys2Proof
end

