-- ==== Sys2Proof/Laws/Moves.lean ====
section
/-! SUPPORT. Everything a step can do, said once: `Moved` lists the changes, and `step_moved` says that a step makes one
of them. Proofs about every step go by cases on it and unfold no meaning. -/

namespace Sys2Proof.Machine

/-- The operations whose reading phases read: with ack = 0 a SEND_REQUEST never gets there. -/
def mayRead : Instr → Bool
  | .rxRead _ => true
  | .requestFrom _ _ _ _ _ _ => true
  | .sendRequest _ _ _ _ => true
  | _ => false

/-- The first phase of a blocking operation (R112, R169). -/
def firstWait (op : Instr) (ph : Phase) : Prop :=
  (isWriteOp op = true ∧ ph = .wLock) ∨ ((∃ T, op = .rxRead T) ∧ ph = .rLock) ∨
    (isCanSendOp op = true ∧ ph = .cLock) ∨ (isCanReadOp op = true ∧ ph = .cLock)

/-- s after w_enq of frame f (R174, R212). -/
def enqueued (s : State) (op : Instr) (f : TxFrame) : State :=
  { s with
    txq := s.txq ++ wireFrame s.cfg f.command f.identifier f.flags f.seq f.data
    txLock := none
    txSeq := if isSendRequest op then s.txSeq + 1 else s.txSeq }

/-- s after a read has taken the last byte of frame f and given RX_LOCK, and where R182 says so the token, back. -/
def readDone (s : State) (f : Frame) (rest : List Byte) : State :=
  { s with
    rxFifo := rest, rxBuf := [], rxLock := none
    ackPending := if s.cfg.seqStrict = true ∧ matched s f = false then s.ackPending else false }

/-- The changes a step can make, after its turn is taken off the schedule; o is the instruction that ran, if one did. -/
inductive Moved (o : Option Instr) (s : State) : State → Prop
  | stays : Moved o s s
  | completesAtOnce (tk : Task) (st : Status) (r : ResultRecord) : Idle s tk → st ≠ .timeout → (∀ m, r ≠ .canMsg m) →
      Moved o s (completed s tk st r)
  | failsAtOnce (tk : Task) (op : Instr) (st : Status) : Idle s tk → st ≠ .timeout → Moved o s (failed s tk op st)
  | setsNodeId (tk : Task) (id : U16) : Idle s tk → o = some (.setNodeId id) →
      Moved o s (completed { s with nodeId := id } tk .ok .none)
  | begins (tk : Task) (op : Instr) (ph : Phase) (T : U32) (sub : Sub) : Idle s tk → firstWait op ph →
      Moved o s (proceeds s tk ⟨op, ph, T, false, sub⟩)
  | takesTxLock (tk : Task) (c : Cur) (f : TxFrame) : Running s tk c → isWriteOp c.op = true → c.phase = .wLock →
      writtenFrame s c.op = some f → s.txLock = none →
      Moved o s (proceeds { s with txLock := some s.active } tk
        { c with phase := if needsToken f.flags then .wToken else .wEnq })
  | takesToken (tk : Task) (c : Cur) (f : TxFrame) : Running s tk c → isWriteOp c.op = true → c.phase = .wToken →
      writtenFrame s c.op = some f → s.ackPending = false →
      Moved o s (proceeds { s with ackPending := true, expSeq := f.seq, expId := f.identifier } tk
        { c with gotToken := true, phase := .wEnq })
  | writes (tk : Task) (c : Cur) (f : TxFrame) (r : ResultRecord) : Running s tk c → isWriteOp c.op = true →
      c.phase = .wEnq → writtenFrame s c.op = some f → s.cfg.hdrLen + f.data.length ≤ s.cfg.txqCap - s.txq.length →
      (∀ m, r ≠ .canMsg m) → Moved o s (completed (enqueued s c.op f) tk .ok r)
  | writesThenReads (tk : Task) (c : Cur) (f : TxFrame) (T : U32) : Running s tk c → isWriteOp c.op = true →
      isReadOp c.op = true → c.phase = .wEnq → writtenFrame s c.op = some f →
      s.cfg.hdrLen + f.data.length ≤ s.cfg.txqCap - s.txq.length →
      Moved o s (proceeds (enqueued s c.op f) tk { c with phase := .rLock, tmo := T, gotToken := false })
  | takesRxLock (tk : Task) (c : Cur) : Running s tk c → mayRead c.op = true → c.phase = .rLock → s.rxLock = none →
      Moved o s (proceeds { s with rxLock := some s.active } tk { c with phase := .rRecv })
  | keepsByte (tk : Task) (c : Cur) (b : Byte) (rest buf : List Byte) : Running s tk c → mayRead c.op = true →
      c.phase = .rRecv → s.rxFifo = b :: rest → dstep s.cfg s.rxBuf b = .more buf →
      Moved o s { s with rxFifo := rest, rxBuf := buf }
  | skipsFrame (tk : Task) (c : Cur) (b : Byte) (rest : List Byte) : Running s tk c → mayRead c.op = true →
      c.phase = .rRecv → s.rxFifo = b :: rest → Moved o s { s with rxFifo := rest, rxBuf := [] }
  | reads (tk : Task) (c : Cur) (b : Byte) (rest : List Byte) (f : Frame) (r : ResultRecord) : Running s tk c →
      mayRead c.op = true → c.phase = .rRecv → s.rxFifo = b :: rest → dstep s.cfg s.rxBuf b = .done f →
      (∀ m, r ≠ .canMsg m) → Moved o s (completed (readDone s f rest) tk .ok r)
  | readFails (tk : Task) (c : Cur) (e : Status) : Running s tk c → mayRead c.op = true → c.phase = .rRecv →
      e ≠ .ok → e ≠ .timeout → Moved o s (failed (readDropped s) tk c.op e)
  | takesCanLock (tk : Task) (c : Cur) (ph : Phase) : Running s tk c → c.phase = .cLock → s.canLock = none →
      (isCanSendOp c.op = true ∧ ph = .cEnq) ∨ (isCanReadOp c.op = true ∧ ph = .cDeq) →
      Moved o s (proceeds { s with canLock := some s.active } tk { c with phase := ph })
  | queuesMessage (tk : Task) (c : Cur) (m : CanMsg) : Running s tk c → isCanSendOp c.op = true → c.phase = .cEnq →
      s.canTxq.length < s.cfg.canTxqDepth →
      Moved o s (completed { s with canTxq := s.canTxq ++ [m], canLock := none } tk .ok .none)
  | takesMessage (tk : Task) (c : Cur) (m : CanMsg) (rest : List CanMsg) : Running s tk c → isCanReadOp c.op = true →
      c.phase = .cDeq → s.canRxq = m :: rest →
      Moved o s (completed { s with canRxq := rest, canLock := none } tk .ok (.canMsg m))
  | expiresAtLock (tk : Task) (c : Cur) : Running s tk c → c.tmo = 0 → progressEnabled s c = false →
      c.phase = .wLock ∨ c.phase = .cLock → Moved o s (failed s tk c.op .timeout)
  | expiresAtToken (tk : Task) (c : Cur) : Running s tk c → c.tmo = 0 → progressEnabled s c = false →
      c.phase = .wToken → Moved o s (failed { s with txLock := none } tk c.op .timeout)
  | expiresAtEnqueue (tk : Task) (c : Cur) : Running s tk c → c.tmo = 0 → progressEnabled s c = false →
      c.phase = .wEnq →
      Moved o s (failed { s with txLock := none, ackPending := if c.gotToken then false else s.ackPending } tk c.op
        .timeout)
  | expiresAtRxLock (tk : Task) (c : Cur) : Running s tk c → c.tmo = 0 → progressEnabled s c = false →
      c.phase = .rLock → Moved o s (failed { s with ackPending := false } tk c.op .timeout)
  | expiresReading (tk : Task) (c : Cur) : Running s tk c → c.tmo = 0 → progressEnabled s c = false →
      c.phase = .rRecv → Moved o s (failed (readDropped s) tk c.op .timeout)
  | expiresAtQueue (tk : Task) (c : Cur) : Running s tk c → c.tmo = 0 → progressEnabled s c = false →
      c.phase = .cEnq ∨ c.phase = .cDeq → Moved o s (failed { s with canLock := none } tk c.op .timeout)
  | receives (fifo : List Byte) (err : Bool) (turns : List Turn) :
      (fifo = s.rxFifo ∨ ∃ b, fifo = s.rxFifo ++ [b] ∧ s.rxFifo.length < s.cfg.rxFifoDepth) →
      Moved o s { s with rxFifo := fifo, rxErrPending := err, turns := turns }
  | emitsByte (x : Byte) (rest : List Byte) : s.txq = x :: rest →
      Moved o s { s with txq := rest, wireOut := s.wireOut ++ [x] }
  | receivesMessage (m : CanMsg) : s.canRxq.length < s.cfg.canRxqDepth → Moved o s { s with canRxq := s.canRxq ++ [m] }
  | dropsMessage (n : U32) : Moved o s { s with canRxDrops := n }
  | sendsMessage (m : CanMsg) (rest : List CanMsg) : s.canTxq = m :: rest →
      Moved o s { s with canTxq := rest, canOut := s.canOut ++ [m] }
  | ticks : Moved o s { s with tasks := s.tasks.map tickTask }
  | resets : o = some .reset → Moved o s s.resetBlock

/-! ## The operations of the state, in the claims' terms -/

theorem failPlain_eq_failed {s : State} {tk : Task} (h : s.tasks[s.active]? = some tk) {op : Instr}
    (hop : isSendRequest op = false) (e : Status) : failPlain s e = failed s tk op e := by
  simp [failed, hop, failPlain, State.complete_eq_completed h]

theorem completeDraw_eq_failed {s : State} {tk : Task} (h : s.tasks[s.active]? = some tk) {op : Instr}
    (hop : isSendRequest op = true) (e : Status) : s.completeDraw e = failed s tk op e := by
  simp [failed, hop, State.completeDraw_eq_completed h]

/-- What a failure continuation is: `failed` of the acting task's operation. -/
def Fails (tk : Task) (op : Instr) (fail : State → Status → State) : Prop :=
  ∀ (s : State) (e : Status), s.tasks[s.active]? = some tk → fail s e = failed s tk op e

theorem failPlain_fails {tk : Task} {op : Instr} (hop : isSendRequest op = false) : Fails tk op failPlain :=
  fun _ e h => failPlain_eq_failed h hop e

theorem completeDraw_fails {tk : Task} {op : Instr} (hop : isSendRequest op = true) :
    Fails tk op State.completeDraw := fun _ e h => completeDraw_eq_failed h hop e

/-- What a success continuation is: a completion with OK and a record that is no CAN message. -/
def Succeeds (tk : Task) (succeed : State → Frame → Bool → Bool → State) : Prop :=
  ∀ (s : State) (f : Frame) (a m : Bool), s.tasks[s.active]? = some tk →
    ∃ r, succeed s f a m = completed s tk .ok r ∧ ∀ x, r ≠ .canMsg x

theorem succeedReceived_succeeds (tk : Task) : Succeeds tk succeedReceived :=
  fun _ f a m h => ⟨.received f a m, State.complete_eq_completed h _ _, by simp⟩

theorem succeedResponse_succeeds (tk : Task) : Succeeds tk succeedResponse :=
  fun _ f _ m h => ⟨.response f.data f m, State.complete_eq_completed h _ _, by simp⟩

/-! ## The progress and expire steps -/

theorem writeProgress_moved {o : Option Instr} {s : State} {tk : Task} {c : Cur} {enq : State → Cur → State}
    (h : Running s tk c) (hw : isWriteOp c.op = true) (pe : progressEnabled s c = true)
    (henq : ∀ f, c.phase = .wEnq → writtenFrame s c.op = some f →
      s.cfg.hdrLen + f.data.length ≤ s.cfg.txqCap - s.txq.length → Moved o s (enq (s.wEnq f) c)) :
    Moved o s (writeProgress enq s c) := by
  unfold writeProgress
  cases hs : writtenFrame s c.op with
  | none => exact .stays
  | some f =>
    cases hp : c.phase <;> simp only
    case wLock =>
      have hl : s.txLock = none := by simpa [progressEnabled, hp] using pe
      have : s.wLock c f = proceeds { s with txLock := some s.active } tk
          { c with phase := if needsToken f.flags then .wToken else .wEnq } :=
        State.setCur_eq_proceeds (s := { s with txLock := some s.active }) h.1 _
      rw [this]
      exact .takesTxLock tk c f h hw hp hs hl
    case wToken =>
      have hl : s.ackPending = false := by simpa [progressEnabled, hp] using pe
      have : s.wToken c f = proceeds { s with ackPending := true, expSeq := f.seq, expId := f.identifier } tk
          { c with gotToken := true, phase := .wEnq } :=
        State.setCur_eq_proceeds (s := s.takeToken f.seq f.identifier) h.1 _
      rw [this]
      exact .takesToken tk c f h hw hp hs hl
    case wEnq => exact henq f hp hs (by simpa [progressEnabled, hp, hs, txRoom] using pe)
    all_goals exact .stays

theorem readProgress_moved {o : Option Instr} {s : State} {tk : Task} {c : Cur} {corr : Bool}
    {succ : State → Frame → Bool → Bool → State} {fail : State → Status → State} (h : Running s tk c)
    (hr : mayRead c.op = true) (pe : progressEnabled s c = true) (hs : Succeeds tk succ) (hf : Fails tk c.op fail) :
    Moved o s (readProgress corr succ fail s c) := by
  unfold readProgress
  cases hp : c.phase <;> simp only
  case rLock =>
    have hl : s.rxLock = none := by simpa [progressEnabled, hp] using pe
    have : State.setCur { s with rxLock := some s.active } { c with phase := .rRecv }
        = proceeds { s with rxLock := some s.active } tk { c with phase := .rRecv } :=
      State.setCur_eq_proceeds (s := { s with rxLock := some s.active }) h.1 _
    rw [this]
    exact .takesRxLock tk c h hr hp hl
  case rRecv =>
    unfold State.rRecv
    by_cases he : s.rxErrPending = true
    · rw [if_pos he, State.rFail_eq _ _ _ (by simp), hf (readDropped s) _ h.1]
      exact .readFails tk c _ h hr hp (by simp) (by simp)
    · rw [if_neg he]
      cases hq : s.rxFifo with
      | nil => exact .stays
      | cons b rest =>
        simp only
        cases hd : dstep s.cfg s.rxBuf b with
        | more buf => exact .keepsByte tk c b rest buf h hr hp hq hd
        | fail e =>
          have hne : e ≠ .ok ∧ e ≠ .timeout := by
            rcases dstep_fail hd with ⟨rfl, _⟩ | ⟨rfl, _⟩ | ⟨rfl, _⟩ <;> simp
          simp only
          rw [State.rFail_eq _ _ _ hne.1, hf (readDropped { s with rxFifo := rest }) _ h.1]
          exact .readFails tk c e h hr hp hne.1 hne.2
        | done f =>
          simp only [State.rSucceed]
          split
          · exact .skipsFrame tk c b rest h hr hp hq
          · rw [State.tokenOnRead_eq]
            obtain ⟨r, h1, h2⟩ := hs (readDone s f rest) f (addressed s f) (matched s f) h.1
            have key : Moved o s (succ (readDone s f rest) f (addressed s f) (matched s f)) := by
              rw [h1]; exact .reads tk c b rest f r h hr hp hq hd h2
            simpa [readDone, addressed, matched] using key
  all_goals exact .stays

theorem serialExpire_moved {o : Option Instr} {s : State} {tk : Task} {c : Cur} {fail : State → Status → State}
    (h : Running s tk c) (pe : progressEnabled s c = false) (ht : c.tmo = 0) (hf : Fails tk c.op fail) :
    Moved o s (serialExpire fail s c) := by
  unfold serialExpire
  cases hp : c.phase <;> simp only
  case wLock => rw [hf _ _ h.1]; exact .expiresAtLock tk c h ht pe (.inl hp)
  case wToken => rw [hf { s with txLock := none } _ h.1]; exact .expiresAtToken tk c h ht pe hp
  case wEnq =>
    rw [hf { s with txLock := none, ackPending := if c.gotToken then false else s.ackPending } _ h.1]
    exact .expiresAtEnqueue tk c h ht pe hp
  case rLock =>
    have : s.tokenOnRead .timeout false = { s with ackPending := false } := by simp [State.tokenOnRead_eq]
    rw [this, hf { s with ackPending := false } _ h.1]
    exact .expiresAtRxLock tk c h ht pe hp
  case rRecv =>
    rw [State.rFail_eq _ _ _ (by simp), hf (readDropped s) _ h.1]
    exact .expiresReading tk c h ht pe hp
  all_goals exact .stays

theorem requestProgress_moved {o : Option Instr} {s : State} {c : Cur} {enq : State → Cur → State} {succ : State → Frame → Bool → Bool → State}
    {fail : State → Status → State} (hw : c.phase = .wLock ∨ c.phase = .wToken ∨ c.phase = .wEnq → Moved o s (writeProgress enq s c))
    (hr : Moved o s (readProgress true succ fail s c)) : Moved o s (requestProgress enq succ fail s c) := by
  unfold requestProgress
  cases hp : c.phase <;> simp only
  case wLock => exact hw (.inl hp)
  case wToken => exact hw (.inr (.inl hp))
  case wEnq => exact hw (.inr (.inr hp))
  case rLock => exact hr
  case rRecv => exact hr
  all_goals exact .stays

theorem canWriteProgress_moved {o : Option Instr} {s : State} {tk : Task} {c : Cur} (h : Running s tk c)
    (hw : isCanSendOp c.op = true) (pe : progressEnabled s c = true) : Moved o s (canWriteProgress s c) := by
  unfold canWriteProgress
  cases hp : c.phase <;> simp only
  case cLock =>
    have hl : s.canLock = none := by simpa [progressEnabled, hp] using pe
    have : s.cLock c .cEnq = proceeds { s with canLock := some s.active } tk { c with phase := .cEnq } :=
      State.setCur_eq_proceeds (s := { s with canLock := some s.active }) h.1 _
    rw [this]
    exact .takesCanLock tk c .cEnq h hp hl (.inl ⟨hw, rfl⟩)
  case cEnq =>
    have hl : s.canTxq.length < s.cfg.canTxqDepth := by simpa [progressEnabled, hp] using pe
    cases sentMsg c with
    | none => exact .stays
    | some m =>
      have : s.cEnq m = completed
          { s with canTxq := s.canTxq ++ [{ m with data := zeroBeyond m.len m.data }], canLock := none } tk .ok
          .none :=
        State.complete_eq_completed (s := { s with
          canTxq := s.canTxq ++ [{ m with data := zeroBeyond m.len m.data }], canLock := none }) h.1 _ _
      show Moved o s (s.cEnq m)
      rw [this]
      exact .queuesMessage tk c _ h hw hp hl
  all_goals exact .stays

theorem canReadProgress_moved {o : Option Instr} {s : State} {tk : Task} {c : Cur} (h : Running s tk c)
    (hw : isCanReadOp c.op = true) (pe : progressEnabled s c = true) : Moved o s (canReadProgress s c) := by
  unfold canReadProgress
  cases hp : c.phase <;> simp only
  case cLock =>
    have hl : s.canLock = none := by simpa [progressEnabled, hp] using pe
    have : s.cLock c .cDeq = proceeds { s with canLock := some s.active } tk { c with phase := .cDeq } :=
      State.setCur_eq_proceeds (s := { s with canLock := some s.active }) h.1 _
    rw [this]
    exact .takesCanLock tk c .cDeq h hp hl (.inr ⟨hw, rfl⟩)
  case cDeq =>
    unfold State.cDeq
    cases hq : s.canRxq with
    | nil => exact .stays
    | cons m rest =>
      simp only
      rw [State.complete_eq_completed (s := { s with canRxq := rest, canLock := none }) h.1]
      exact .takesMessage tk c m rest h hw hp hq
  all_goals exact .stays

theorem canExpire_moved {o : Option Instr} {s : State} {tk : Task} {c : Cur} (h : Running s tk c)
    (pe : progressEnabled s c = false) (ht : c.tmo = 0) (hop : isSendRequest c.op = false) :
    Moved o s (canExpire s c) := by
  have hf : Fails tk c.op failPlain := failPlain_fails hop
  unfold canExpire
  cases hp : c.phase <;> simp only
  case cLock => rw [hf _ _ h.1]; exact .expiresAtLock tk c h ht pe (.inr hp)
  case cEnq => rw [hf { s with canLock := none } _ h.1]; exact .expiresAtQueue tk c h ht pe (.inl hp)
  case cDeq => rw [hf { s with canLock := none } _ h.1]; exact .expiresAtQueue tk c h ht pe (.inr hp)
  all_goals exact .stays

/-! ## Turns -/

theorem issueNow_moved {o : Option Instr} {s : State} {run : State → State}
    (h : ∀ tk, Idle s tk → Moved o s (run s)) : Moved o s (s.issueNow run) := by
  rcases s.issueNow_cases run with ⟨tk, hi, he⟩ | he
  · rw [he]; exact h tk hi
  · rw [he]; exact .stays

theorem completeWith_moved {o : Option Instr} {s : State} {tk : Task} (hi : Idle s tk) (r : Completion)
    (h1 : r.status ≠ .timeout) (h2 : ∀ m, r.result ≠ .canMsg m) : Moved o s (s.completeWith r) := by
  rw [State.completeWith, State.complete_eq_completed hi.1]
  exact .completesAtOnce tk _ _ hi h1 h2

theorem blockingTurn_moved {o : Option Instr} {s : State} {op : Instr} {issue : State → State}
    {progress expire : State → Cur → State} (hi : ∀ tk, Idle s tk → Moved o s (issue s))
    (hp : ∀ tk c, Running s tk c → c.op = op → progressEnabled s c = true → Moved o s (progress s c))
    (he : ∀ tk c, Running s tk c → c.op = op → progressEnabled s c = false → c.tmo = 0 → Moved o s (expire s c)) :
    Moved o s (s.blockingTurn op issue progress expire) := by
  rcases s.blockingTurn_cases op issue progress expire with ⟨tk, h, e⟩ | ⟨tk, c, h, ho, pe, e⟩ |
    ⟨tk, c, h, ho, pe, ht, e⟩ | e
  · rw [e]; exact hi tk h
  · rw [e]; exact hp tk c h ho pe
  · rw [e]; exact he tk c h ho pe ht
  · rw [e]; exact .stays

theorem begin_moved {o : Option Instr} {s : State} {tk : Task} (hi : Idle s tk) (op : Instr) (ph : Phase) (T : U32)
    (sub : Sub) (hw : firstWait op ph) : Moved o s (s.begin op ph T sub) := by
  rw [State.begin_eq_proceeds hi.1]
  exact .begins tk op ph T sub hi hw

theorem failPlain_moved {o : Option Instr} {s : State} {tk : Task} (hi : Idle s tk) (e : Status) (he : e ≠ .timeout) :
    Moved o s (failPlain s e) := by
  rw [failPlain, State.complete_eq_completed hi.1]
  exact .completesAtOnce tk _ _ hi he (by simp)

theorem issueWrite_moved {o : Option Instr} {s : State} {tk : Task} (hi : Idle s tk) (op : Instr) (data : List Byte)
    (T : U32) (hw : isWriteOp op = true) : Moved o s (issueWrite op data T s) := by
  unfold issueWrite
  split
  · exact failPlain_moved hi _ (by simp)
  · exact begin_moved hi _ _ _ _ (.inl ⟨hw, rfl⟩)

/-- The whole of a completion at the enqueue. -/
theorem enqueuedDone_moved {o : Option Instr} {s : State} {tk : Task} {c : Cur} (h : Running s tk c)
    (hw : isWriteOp c.op = true) (hsr : isSendRequest c.op = false) (f : TxFrame) (hp : c.phase = .wEnq)
    (hs : writtenFrame s c.op = some f) (hr : s.cfg.hdrLen + f.data.length ≤ s.cfg.txqCap - s.txq.length) :
    Moved o s (enqueuedDone (s.wEnq f) c) := by
  have e : enqueuedDone (s.wEnq f) c = completed (enqueued s c.op f) tk .ok .none := by
    rw [enqueuedDone, State.complete_eq_completed (s := s.wEnq f) h.1]
    simp [State.wEnq, enqueued, hsr, frameBytes_eq_wireFrame]
  rw [e]
  exact .writes tk c f _ h hw hp hs hr (by simp)

theorem requestEnqueued_moved {o : Option Instr} {s : State} {tk : Task} {c : Cur} {node : U16} {payload : List Byte}
    {ack : Bool} {T : U32} (h : Running s tk c) (ho : c.op = .sendRequest node payload ack T) (f : TxFrame)
    (hp : c.phase = .wEnq) (hs : writtenFrame s c.op = some f)
    (hr : s.cfg.hdrLen + f.data.length ≤ s.cfg.txqCap - s.txq.length) :
    Moved o s (requestEnqueued payload ack T (s.wEnq f) c) := by
  have hsr : isSendRequest c.op = true := by rw [ho]; rfl
  have hw : isWriteOp c.op = true := by rw [ho]; rfl
  have e : ({ s.wEnq f with txSeq := (s.wEnq f).txSeq + 1 } : State)
      = enqueued s c.op f := by
    simp [State.wEnq, enqueued, hsr, frameBytes_eq_wireFrame]
  unfold requestEnqueued
  cases ack with
  | true =>
    rw [if_pos rfl, e, State.readHalf, State.setCur_eq_proceeds (s := enqueued s c.op f) h.1]
    exact .writesThenReads tk c f T h hw (by rw [ho]; rfl) hp hs hr
  | false =>
    rw [if_neg (by simp), e, State.complete_eq_completed (s := enqueued s c.op f) h.1]
    exact .writes tk c f _ h hw hp hs hr (by simp)

/-! ## Arrivals -/

theorem receiveByte_moved (o : Option Instr) (s : State) (b : Byte) : Moved o s (s.receiveByte b) := by
  obtain ⟨fifo, err, h1, h2⟩ := s.receiveByte_eq b
  rw [h1]
  exact .receives fifo err s.turns (h2.imp_right fun h => ⟨b, h⟩)

theorem deliver_moved (o : Option Instr) (s : State) (bs : List Byte) : Moved o s (s.deliver bs) := by
  cases bs with
  | nil => exact .stays
  | cons b rest =>
    obtain ⟨fifo, err, h1, h2⟩ := s.receiveByte_eq b
    rw [State.deliver_cons, h1]
    exact .receives fifo err _ (h2.imp_right fun h => ⟨b, h⟩)

/-! ## Every instruction, every step -/

theorem decodeLoop_record (c : Config) : ∀ (bs buf : List Byte) (used : Nat),
    (decodeLoop c buf used bs).status ≠ .timeout ∧ ∀ m, (decodeLoop c buf used bs).result ≠ .canMsg m := by
  intro bs
  induction bs with
  | nil => intro buf used; simp [decodeLoop]
  | cons b bs ih =>
    intro buf used
    unfold decodeLoop
    cases hd : dstep c buf b with
    | more buf' => exact ih buf' (used + 1)
    | done f => simp
    | fail e =>
      refine ⟨?_, by simp⟩
      show e ≠ .timeout
      rcases dstep_fail hd with ⟨rfl, _⟩ | ⟨rfl, _⟩ | ⟨rfl, _⟩ <;> simp

/-- Every instruction answers a next state, and makes one of the changes listed. -/
theorem exec_moved (i : Instr) (s : State) : ∃ t, exec i s = .next t ∧ Moved (some i) s t := by
  cases i
  case csum =>
    exact ⟨_, rfl, issueNow_moved fun tk hi => completeWith_moved hi _ (by unfold csumResult; split <;> simp)
      (by unfold csumResult; split <;> simp)⟩
  case csumVerify =>
    exact ⟨_, rfl, issueNow_moved fun tk hi => completeWith_moved hi _
      (by unfold csumVerifyResult; (repeat' split) <;> simp) (by unfold csumVerifyResult; (repeat' split) <;> simp)⟩
  case encodeFrame =>
    exact ⟨_, rfl, issueNow_moved fun tk hi => completeWith_moved hi _
      (by unfold encodeResult enc; split <;> rename_i h <;> split at h <;> cases h <;> simp)
      (by unfold encodeResult enc; split <;> simp)⟩
  case decodeFrame =>
    exact ⟨_, rfl, issueNow_moved fun tk hi => completeWith_moved hi _ (decodeLoop_record _ _ _ _).1
      (decodeLoop_record _ _ _ _).2⟩
  case setNodeId id =>
    refine ⟨_, rfl, issueNow_moved fun tk hi => ?_⟩
    rw [State.complete_eq_completed (s := { s with nodeId := id }) hi.1]
    exact .setsNodeId tk id hi rfl
  case canParse =>
    exact ⟨_, rfl, issueNow_moved fun tk hi => completeWith_moved hi _ (by unfold canParseResult; split <;> simp)
      (by unfold canParseResult; split <;> simp)⟩
  case canBuild f =>
    refine ⟨_, rfl, issueNow_moved fun tk hi => completeWith_moved hi _ ?_ ?_⟩ <;> cases f <;>
      simp only [canBuildResult] <;> (try split) <;> simp
  case txWrite =>
    exact ⟨_, rfl, blockingTurn_moved (fun tk hi => issueWrite_moved hi _ _ _ rfl)
      (fun tk c h ho pe => writeProgress_moved h (by rw [ho]; rfl) pe
        fun f hp hs hr => enqueuedDone_moved h (by rw [ho]; rfl) (by rw [ho]; rfl) f hp hs hr)
      (fun tk c h ho pe ht => serialExpire_moved h pe ht (failPlain_fails (by rw [ho]; rfl)))⟩
  case rxRead =>
    exact ⟨_, rfl, blockingTurn_moved (fun tk hi => begin_moved hi _ _ _ _ (.inr (.inl ⟨⟨_, rfl⟩, rfl⟩)))
      (fun tk c h ho pe => readProgress_moved h (by rw [ho]; rfl) pe (succeedReceived_succeeds tk)
        (failPlain_fails (by rw [ho]; rfl)))
      (fun tk c h ho pe ht => serialExpire_moved h pe ht (failPlain_fails (by rw [ho]; rfl)))⟩
  case requestFrom T =>
    refine ⟨_, rfl, blockingTurn_moved (fun tk hi => issueWrite_moved hi _ _ _ rfl)
      (fun tk c h ho pe => requestProgress_moved
        (fun _ => writeProgress_moved h (by rw [ho]; rfl) pe
          fun f hp hs hr => ?_)
        (readProgress_moved h (by rw [ho]; rfl) pe (succeedReceived_succeeds tk)
          (failPlain_fails (by rw [ho]; rfl))))
      (fun tk c h ho pe ht => serialExpire_moved h pe ht (failPlain_fails (by rw [ho]; rfl)))⟩
    have hsr : isSendRequest c.op = false := by rw [ho]; rfl
    have e : s.wEnq f = enqueued s c.op f := by
      simp [State.wEnq, enqueued, hsr, frameBytes_eq_wireFrame]
    rw [e, State.readHalf, State.setCur_eq_proceeds (s := enqueued s c.op f) h.1]
    exact .writesThenReads tk c f T h (by rw [ho]; rfl) (by rw [ho]; rfl) hp hs hr
  case sendRequest =>
    refine ⟨_, rfl, blockingTurn_moved (fun tk hi => ?_)
      (fun tk c h ho pe => requestProgress_moved
        (fun _ => writeProgress_moved h (by rw [ho]; rfl) pe
          fun f hp hs hr => requestEnqueued_moved h ho f hp hs hr)
        (readProgress_moved h (by rw [ho]; rfl) pe (succeedResponse_succeeds tk)
          (completeDraw_fails (by rw [ho]; rfl))))
      (fun tk c h ho pe ht => serialExpire_moved h pe ht (completeDraw_fails (by rw [ho]; rfl)))⟩
    unfold issueRequest
    split
    · rw [completeDraw_eq_failed (op := .sendRequest 0 [] false 0) hi.1 rfl]
      exact .failsAtOnce tk _ _ hi (by simp)
    · exact begin_moved hi _ _ _ _ (.inl ⟨rfl, rfl⟩)
  case respond =>
    refine ⟨_, rfl, blockingTurn_moved (fun tk hi => ?_)
      (fun tk c h ho pe => writeProgress_moved h (by rw [ho]; rfl) pe
        fun f hp hs hr => enqueuedDone_moved h (by rw [ho]; rfl) (by rw [ho]; rfl) f hp hs hr)
      (fun tk c h ho pe ht => serialExpire_moved h pe ht (failPlain_fails (by rw [ho]; rfl)))⟩
    unfold issueRespond
    split
    · rw [State.complete_eq_completed hi.1]; exact .completesAtOnce tk _ _ hi (by simp) (by simp)
    · exact issueWrite_moved hi _ _ _ rfl
  case canWrite =>
    refine ⟨_, rfl, blockingTurn_moved (fun tk hi => ?_)
      (fun tk c h ho pe => canWriteProgress_moved h (by rw [ho]; rfl) pe)
      (fun tk c h ho pe ht => canExpire_moved h pe ht (by rw [ho]; rfl))⟩
    unfold issueCanWrite
    split
    · exact failPlain_moved hi _ (by simp)
    · split
      · exact failPlain_moved hi _ (by simp)
      · exact begin_moved hi _ _ _ _ (.inr (.inr (.inl ⟨rfl, rfl⟩)))
  case canRead =>
    exact ⟨_, rfl, blockingTurn_moved
      (fun tk hi => begin_moved hi _ _ _ _ (.inr (.inr (.inr ⟨rfl, rfl⟩))))
      (fun tk c h ho pe => canReadProgress_moved h (by rw [ho]; rfl) pe)
      (fun tk c h ho pe ht => canExpire_moved h pe ht (by rw [ho]; rfl))⟩
  case sendEvent =>
    refine ⟨_, rfl, blockingTurn_moved (fun tk hi => ?_)
      (fun tk c h ho pe => canWriteProgress_moved h (by rw [ho]; rfl) pe)
      (fun tk c h ho pe ht => canExpire_moved h pe ht (by rw [ho]; rfl))⟩
    unfold issueSendEvent
    split
    · exact failPlain_moved hi _ (by simp)
    · split
      · exact failPlain_moved hi _ (by simp)
      · exact begin_moved hi _ _ _ _ (.inr (.inr (.inl ⟨rfl, rfl⟩)))
  case wireRxByte b => exact ⟨_, rfl, receiveByte_moved _ s b⟩
  case wireRxError => exact ⟨_, rfl, .receives s.rxFifo true s.turns (.inl rfl)⟩
  case wireTxByte =>
    refine ⟨_, rfl, ?_⟩
    unfold State.emitByte
    split
    · exact .stays
    · exact .emitsByte _ _ ‹_›
  case canRxMsg m =>
    refine ⟨_, rfl, ?_⟩
    split
    · unfold State.receiveCan
      split
      · exact .receivesMessage m ‹_›
      · exact .dropsMessage _
    · exact .stays
  case canTxDone =>
    refine ⟨_, rfl, ?_⟩
    unfold State.finishCanTx
    split
    · exact .stays
    · exact .sendsMessage _ _ ‹_›
  case tick =>
    refine ⟨_, rfl, ?_⟩
    split
    · exact .stays
    · exact .ticks
  case reset => exact ⟨_, rfl, .resets rfl⟩
  all_goals exact ⟨_, rfl, deliver_moved _ s _⟩

/-- A step takes its turn off the schedule, names the acting task, and makes one of the changes listed. -/
theorem step_moved {s t : State} (h : step s = .next t) :
    ∃ (a : Nat) (turns : List Turn) (o : Option Instr), Moved o { s with active := a, turns := turns } t ∧
      ∀ i, o = some i → fetch s = .run i { s with active := a, turns := turns } := by
  obtain ⟨a, ts, hf⟩ := fetch_state (s := s)
  refine ⟨a, ts, ?_⟩
  rcases step_cases h with h1 | ⟨i, s', h1, h2⟩ | ⟨s', h1, rfl⟩ | ⟨bytes, s', h1, rfl⟩
  · exact ⟨none, by rw [hf t (.inl h1)]; exact .stays, by simp⟩
  · obtain ⟨t', h3, h4⟩ := exec_moved i s'
    rw [h3] at h2
    cases h2
    have := hf s' (.inr (.inl ⟨i, h1⟩))
    exact ⟨some i, by rw [← this]; exact h4, by rintro _ ⟨⟩; rw [← this]; exact h1⟩
  · rw [hf s' (.inr (.inr (.inl h1)))]
    refine ⟨none, issueNow_moved fun tk hi => ?_, by simp⟩
    rw [State.complete_eq_completed hi.1]
    exact .completesAtOnce tk _ _ hi (by simp) (by simp)
  · rw [hf s' (.inr (.inr (.inr ⟨bytes, h1⟩)))]
    exact ⟨none, deliver_moved _ _ bytes, by simp⟩

end Sys2Proof.Machine
end

