-- ==== Sys2Proof/Laws/PerInstr.lean ====
section
/-! SUPPORT. A law about every instruction as syntax: the bytes of an instruction begin with the code that opcode_table.json
gives its row, after the sync byte where the row is the command byte of a serial frame (30_encoding.md R110, R113, R80). -/

namespace Sys2Proof.Laws.LeadByte

/-- The code of an instruction's row in opcode_table.json, and whether it is a serial frame's command byte. -/
def rowCode : Instr → Byte × Bool
  | .csum _ _ _ _ _ => (0x01, false)
  | .csumVerify _ => (0x02, false)
  | .encodeFrame _ _ _ _ _ => (0x03, false)
  | .decodeFrame _ => (0x04, false)
  | .txWrite _ _ _ _ _ _ => (0x10, false)
  | .rxRead _ => (0x11, false)
  | .requestFrom _ _ _ _ _ _ => (0x12, false)
  | .sendRequest _ _ _ _ => (0x13, false)
  | .respond _ _ _ _ => (0x14, false)
  | .setNodeId _ => (0x15, false)
  | .canWrite _ _ _ _ => (0x20, false)
  | .canRead _ => (0x21, false)
  | .canParse _ => (0x22, false)
  | .canBuild _ => (0x23, false)
  | .sendEvent _ _ _ => (0x24, false)
  | .wireRxByte _ => (0x80, false)
  | .wireRxError => (0x81, false)
  | .wireTxByte => (0x82, false)
  | .canRxMsg _ => (0x83, false)
  | .canTxDone => (0x84, false)
  | .tick => (0x85, false)
  | .reset => (0x86, false)
  | .cmdNop _ _ _ _ _ _ => (0x00, true)
  | .cmdRestart _ _ _ _ _ _ => (0x01, true)
  | .cmdPing _ _ _ _ _ _ => (0x02, true)
  | .cmdLedCtrl _ _ _ _ _ _ => (0x03, true)
  | .cmdDiscover _ _ _ _ _ _ => (0x04, true)
  | .cmdGetBoardInfo _ _ _ _ _ _ => (0x05, true)
  | .cmdRequest _ _ _ _ _ _ => (0x06, true)
  | .cmdEvent _ _ _ _ _ _ => (0x07, true)
  | .cmdFlashLoaderBegin _ _ _ _ _ _ => (0x08, true)
  | .cmdFlashLoaderWrite _ _ _ _ _ _ => (0x09, true)
  | .cmdFlashLoaderCheck _ _ _ _ _ _ => (0x0A, true)
  | .cmdFlashLoaderEnd _ _ _ _ _ _ => (0x0B, true)
  | .cmdReadRegister _ _ _ _ _ _ => (0x0C, true)

/-- The encoding begins with the row's code: at byte 0 for an operation or event, at byte 1 after the sync byte for a
frame. -/
def Statement (i : Instr) : Prop :=
  ∃ rest, encode i = (if (rowCode i).2 then [frameMark, (rowCode i).1] else [(rowCode i).1]) ++ rest

theorem csum :
    ∀ command identifier flags seq data, Statement (.csum command identifier flags seq data) :=
  fun _ _ _ _ _ => ⟨_, rfl⟩

theorem csumVerify : ∀ buf, Statement (.csumVerify buf) := fun _ => ⟨_, rfl⟩

theorem encodeFrame :
    ∀ command identifier flags seq data, Statement (.encodeFrame command identifier flags seq data) :=
  fun _ _ _ _ _ => ⟨_, rfl⟩

theorem decodeFrame : ∀ buf, Statement (.decodeFrame buf) := fun _ => ⟨_, rfl⟩

theorem txWrite :
    ∀ command identifier flags seq data T, Statement (.txWrite command identifier flags seq data T) :=
  fun _ _ _ _ _ _ => ⟨_, rfl⟩

theorem rxRead : ∀ T, Statement (.rxRead T) := fun _ => ⟨_, rfl⟩

theorem requestFrom :
    ∀ command identifier flags seq data T, Statement (.requestFrom command identifier flags seq data T) :=
  fun _ _ _ _ _ _ => ⟨_, rfl⟩

theorem sendRequest : ∀ node payload ack T, Statement (.sendRequest node payload ack T) := fun _ _ _ _ => ⟨_, rfl⟩

theorem respond : ∀ req payload err T, Statement (.respond req payload err T) := fun _ _ _ _ => ⟨_, rfl⟩

theorem setNodeId : ∀ id, Statement (.setNodeId id) := fun _ => ⟨_, rfl⟩

theorem canWrite : ∀ data id len T, Statement (.canWrite data id len T) := fun _ _ _ _ => ⟨_, rfl⟩

theorem canRead : ∀ T, Statement (.canRead T) := fun _ => ⟨_, rfl⟩

theorem canParse : ∀ msg, Statement (.canParse msg) := fun _ => ⟨_, rfl⟩

theorem canBuild : ∀ fields, Statement (.canBuild fields) := fun _ => ⟨_, rfl⟩

theorem sendEvent : ∀ event operand T, Statement (.sendEvent event operand T) := fun _ _ _ => ⟨_, rfl⟩

theorem wireRxByte : ∀ b, Statement (.wireRxByte b) := fun _ => ⟨_, rfl⟩

theorem wireRxError : Statement .wireRxError := ⟨_, rfl⟩

theorem wireTxByte : Statement .wireTxByte := ⟨_, rfl⟩

theorem canRxMsg : ∀ m, Statement (.canRxMsg m) := fun _ => ⟨_, rfl⟩

theorem canTxDone : Statement .canTxDone := ⟨_, rfl⟩

theorem tick : Statement .tick := ⟨_, rfl⟩

theorem reset : Statement .reset := ⟨_, rfl⟩

theorem cmdNop :
    ∀ identifier flags length seq checksum data, Statement (.cmdNop identifier flags length seq checksum data) :=
  fun _ _ _ _ _ _ => ⟨_, rfl⟩

theorem cmdRestart :
    ∀ identifier flags length seq checksum data, Statement (.cmdRestart identifier flags length seq checksum data) :=
  fun _ _ _ _ _ _ => ⟨_, rfl⟩

theorem cmdPing :
    ∀ identifier flags length seq checksum data, Statement (.cmdPing identifier flags length seq checksum data) :=
  fun _ _ _ _ _ _ => ⟨_, rfl⟩

theorem cmdLedCtrl :
    ∀ identifier flags length seq checksum data, Statement (.cmdLedCtrl identifier flags length seq checksum data) :=
  fun _ _ _ _ _ _ => ⟨_, rfl⟩

theorem cmdDiscover :
    ∀ identifier flags length seq checksum data, Statement (.cmdDiscover identifier flags length seq checksum data) :=
  fun _ _ _ _ _ _ => ⟨_, rfl⟩

theorem cmdGetBoardInfo :
    ∀ identifier flags length seq checksum data, Statement (.cmdGetBoardInfo identifier flags length seq checksum data) :=
  fun _ _ _ _ _ _ => ⟨_, rfl⟩

theorem cmdRequest :
    ∀ identifier flags length seq checksum data, Statement (.cmdRequest identifier flags length seq checksum data) :=
  fun _ _ _ _ _ _ => ⟨_, rfl⟩

theorem cmdEvent :
    ∀ identifier flags length seq checksum data, Statement (.cmdEvent identifier flags length seq checksum data) :=
  fun _ _ _ _ _ _ => ⟨_, rfl⟩

theorem cmdFlashLoaderBegin :
    ∀ identifier flags length seq checksum data, Statement (.cmdFlashLoaderBegin identifier flags length seq checksum data) :=
  fun _ _ _ _ _ _ => ⟨_, rfl⟩

theorem cmdFlashLoaderWrite :
    ∀ identifier flags length seq checksum data, Statement (.cmdFlashLoaderWrite identifier flags length seq checksum data) :=
  fun _ _ _ _ _ _ => ⟨_, rfl⟩

theorem cmdFlashLoaderCheck :
    ∀ identifier flags length seq checksum data, Statement (.cmdFlashLoaderCheck identifier flags length seq checksum data) :=
  fun _ _ _ _ _ _ => ⟨_, rfl⟩

theorem cmdFlashLoaderEnd :
    ∀ identifier flags length seq checksum data, Statement (.cmdFlashLoaderEnd identifier flags length seq checksum data) :=
  fun _ _ _ _ _ _ => ⟨_, rfl⟩

theorem cmdReadRegister :
    ∀ identifier flags length seq checksum data, Statement (.cmdReadRegister identifier flags length seq checksum data) :=
  fun _ _ _ _ _ _ => ⟨_, rfl⟩

end Sys2Proof.Laws.LeadByte
end

