-- ==== Sys2Proof/Tests/Slice0.lean ====
section
/-! SUPPORT. The model's own tests: ill-formed terms that WellFormed refuses, every constructor's bytes written out from the
spec's encodings (R110, R113, R80; the serialisation of arguments is log 5), one or two steps an instruction with results from
spec/95_test_vectors.md, and for each statement with hypotheses a state and operands that meet them. -/

namespace Sys2Proof.Tests

open Machine

/-! ## Helpers -/

/-- A task with no operation. -/
def free : Task := idleTask []

/-- Task 0 runs c, task 1 has no operation. -/
def running (c : Cur) : State := { State.reset with tasks := [{ free with cur := some c }, free] }

/-- The task of `running`. -/
def runner (c : Cur) : Task := { free with cur := some c }

/-- The state after one turn. -/
def after (i : Instr) (s : State) : State :=
  match exec i s with
  | .next t => t
  | .fault _ => s
  | .refused _ => s

/-- Task 0's last result. -/
def lastResult (s : State) : Option Completion := (s.tasks[0]?).bind fun tk => tk.results.getLast?

/-- Task 0's operation. -/
def current (s : State) : Option Cur := s.curOf 0

/-- The eight bytes of V-N1's message. -/
def eventData : Bytes8 := ⟨0x10, 0x01, 0, 0, 0, 0, 0, 0⟩

/-- V-Q1's frame with sequence number 0: node 7, payload [40 01], ack = 1. -/
def requestOut : TxFrame := ⟨0x06, 0x0007, 0x0006, 0x00, [0x40, 0x01]⟩

theorem idle_reset : Idle State.reset free := ⟨by decide, by decide⟩

theorem running_runner (c : Cur) : Running (running c) (runner c) c := ⟨rfl, rfl⟩

/-! ## WellFormed refuses -/

/-- A frame whose length field says 1 and whose payload is empty. -/
theorem test_wf_refuses_wrong_length :
    (Instr.cmdNop 0 0 1 0 0 []).wf = false ∧ (Instr.cmdRestart 0 0 1 0 0 []).wf = false ∧
      (Instr.cmdPing 0 0 1 0 0 []).wf = false ∧ (Instr.cmdLedCtrl 0 0 1 0 0 []).wf = false ∧
      (Instr.cmdDiscover 0 0 1 0 0 []).wf = false ∧ (Instr.cmdGetBoardInfo 0 0 1 0 0 []).wf = false ∧
      (Instr.cmdRequest 0 0 1 0 0 []).wf = false ∧ (Instr.cmdEvent 0 0 1 0 0 []).wf = false ∧
      (Instr.cmdFlashLoaderBegin 0 0 1 0 0 []).wf = false ∧ (Instr.cmdFlashLoaderWrite 0 0 1 0 0 []).wf = false ∧
      (Instr.cmdFlashLoaderCheck 0 0 1 0 0 []).wf = false ∧ (Instr.cmdFlashLoaderEnd 0 0 1 0 0 []).wf = false ∧
      (Instr.cmdReadRegister 0 0 1 0 0 []).wf = false := by decide

/-! ## Decoding, constructor by constructor -/

theorem test_decode_checksum_and_codec :
    decodeWhole [0x01, 0x06, 0x34, 0x12, 0x06, 0xF0, 0x5A, 0x01, 0x24, 0x01, 0x01, 0x00]
      = .ok (.csum 0x06 0x1234 0xF006 0x5A [0x24, 0x01]) ∧
    decodeWhole [0x02, 0x01, 0xAA, 0x01, 0x06, 0x01, 0x07, 0x00] = .ok (.csumVerify [0xAA, 0x06, 0x07]) ∧
    decodeWhole [0x03, 0x0D, 0x34, 0x12, 0xF6, 0x0F, 0x5A, 0x00]
      = .ok (.encodeFrame 0x0D 0x1234 0x0FF6 0x5A []) ∧
    decodeWhole [0x04, 0x01, 0xAB, 0x00] = .ok (.decodeFrame [0xAB]) := by
  exact ⟨rfl, rfl, rfl, rfl⟩

theorem test_decode_serial :
    decodeWhole [0x10, 0x02, 0xFF, 0xFF, 0x07, 0x00, 0x10, 0x01, 0x55, 0x00, 0x0A, 0x0B, 0x0C, 0x0D]
      = .ok (.txWrite 0x02 0xFFFF 0x0007 0x10 [0x55] 0x0D0C0B0A) ∧
    decodeWhole [0x11, 0x05, 0x00, 0x00, 0x80] = .ok (.rxRead 0x80000005) ∧
    decodeWhole [0x12, 0x06, 0x07, 0x00, 0x06, 0x00, 0x01, 0x00, 0x64, 0x00, 0x00, 0x00]
      = .ok (.requestFrom 0x06 0x0007 0x0006 0x01 [] 100) := by exact ⟨rfl, rfl, rfl⟩

theorem test_decode_request :
    decodeWhole [0x13, 0x07, 0x80, 0x01, 0x24, 0x00, 0x01, 0x64, 0x00, 0x00, 0x00]
      = .ok (.sendRequest 0x8007 [0x24] true 100) ∧
    decodeWhole [0x14, 0x06, 0x07, 0x00, 0x06, 0x00, 0x01, 0x00, 0x03, 0xDE, 0x01, 0x24, 0x00, 0x01, 0x7F, 0x00,
        0x01, 0x09, 0x0A, 0x00, 0x00, 0x00]
      = .ok (.respond ⟨0x06, 0x0007, 0x0006, 0x0001, 0x03, 0xDE, [0x24]⟩ [0x7F] (some 0x09) 10) ∧
    decodeWhole [0x15, 0x05, 0x01] = .ok (.setNodeId 0x0105) := by exact ⟨rfl, rfl, rfl⟩

theorem test_decode_can :
    decodeWhole [0x20, 1, 2, 3, 4, 5, 6, 7, 8, 0x05, 0x04, 0x00, 0x00, 0x09, 0x0A, 0x00, 0x00, 0x00]
      = .ok (.canWrite ⟨1, 2, 3, 4, 5, 6, 7, 8⟩ 0x405 9 10) ∧
    decodeWhole [0x21, 0xFF, 0xFF, 0xFF, 0xFF] = .ok (.canRead tmoInf) ∧
    decodeWhole [0x22, 0x05, 0x00, 0x01, 0x00, 0x08, 1, 2, 3, 4, 5, 6, 7, 8]
      = .ok (.canParse ⟨0x10005, 8, ⟨1, 2, 3, 4, 5, 6, 7, 8⟩⟩) ∧
    decodeWhole [0x23, 0x01, 0x07, 0x10, 0x34, 0x12, 0x2A, 0x00, 0x00, 0x80]
      = .ok (.canBuild (.legacy ⟨0x07, 0x10, 0x1234, 0x8000002A⟩)) ∧
    decodeWhole [0x23, 0x00, 0x10, 0x01, 0x01, 0x00] = .ok (.canBuild (.generic ⟨0x10, [0x01]⟩)) ∧
    decodeWhole [0x24, 0x10, 0x00, 0x01, 0x01, 0x00, 0x0A, 0x00, 0x00, 0x00]
      = .ok (.sendEvent 0x10 (.args [0x01]) 10) ∧
    decodeWhole [0x24, 0x10, 0x01, 0x2A, 0x00, 0x00, 0x00, 0x0A, 0x00, 0x00, 0x00]
      = .ok (.sendEvent 0x10 (.data 0x2A) 10) := by exact ⟨rfl, rfl, rfl, rfl, rfl, rfl, rfl⟩

theorem test_decode_events :
    decodeWhole [0x80, 0x5A] = .ok (.wireRxByte 0x5A) ∧ decodeWhole [0x81] = .ok .wireRxError ∧
      decodeWhole [0x82] = .ok .wireTxByte ∧
      decodeWhole [0x83, 0x05, 0x00, 0x00, 0x00, 0x02, 0x10, 0x01, 0, 0, 0, 0, 0, 0]
        = .ok (.canRxMsg ⟨0x005, 2, eventData⟩) ∧
      decodeWhole [0x84] = .ok .canTxDone ∧ decodeWhole [0x85] = .ok .tick ∧ decodeWhole [0x86] = .ok .reset := by
  exact ⟨rfl, rfl, rfl, rfl, rfl, rfl, rfl⟩

/-- The command byte is byte 1 of a frame (R80): identifier 0x1234, flags 0x0FF6, length 1, seq 0x5A, checksum 0x76. -/
theorem test_decode_command_frames :
    decodeWhole [0xAA, 0x00, 0x34, 0x12, 0xF6, 0x0F, 0x01, 0x00, 0x5A, 0x76, 0x99]
        = .ok (.cmdNop 0x1234 0x0FF6 1 0x5A 0x76 [0x99]) ∧
      decodeWhole [0xAA, 0x01, 0x34, 0x12, 0xF6, 0x0F, 0x01, 0x00, 0x5A, 0x76, 0x99]
        = .ok (.cmdRestart 0x1234 0x0FF6 1 0x5A 0x76 [0x99]) ∧
      decodeWhole [0xAA, 0x02, 0x34, 0x12, 0xF6, 0x0F, 0x01, 0x00, 0x5A, 0x76, 0x99]
        = .ok (.cmdPing 0x1234 0x0FF6 1 0x5A 0x76 [0x99]) ∧
      decodeWhole [0xAA, 0x03, 0x34, 0x12, 0xF6, 0x0F, 0x01, 0x00, 0x5A, 0x76, 0x99]
        = .ok (.cmdLedCtrl 0x1234 0x0FF6 1 0x5A 0x76 [0x99]) ∧
      decodeWhole [0xAA, 0x04, 0x34, 0x12, 0xF6, 0x0F, 0x01, 0x00, 0x5A, 0x76, 0x99]
        = .ok (.cmdDiscover 0x1234 0x0FF6 1 0x5A 0x76 [0x99]) ∧
      decodeWhole [0xAA, 0x05, 0x34, 0x12, 0xF6, 0x0F, 0x01, 0x00, 0x5A, 0x76, 0x99]
        = .ok (.cmdGetBoardInfo 0x1234 0x0FF6 1 0x5A 0x76 [0x99]) ∧
      decodeWhole [0xAA, 0x06, 0x34, 0x12, 0xF6, 0x0F, 0x01, 0x00, 0x5A, 0x76, 0x99]
        = .ok (.cmdRequest 0x1234 0x0FF6 1 0x5A 0x76 [0x99]) := by exact ⟨rfl, rfl, rfl, rfl, rfl, rfl, rfl⟩

theorem test_decode_more_command_frames :
    decodeWhole [0xAA, 0x07, 0x34, 0x12, 0xF6, 0x0F, 0x01, 0x00, 0x5A, 0x76, 0x99]
        = .ok (.cmdEvent 0x1234 0x0FF6 1 0x5A 0x76 [0x99]) ∧
      decodeWhole [0xAA, 0x08, 0x34, 0x12, 0xF6, 0x0F, 0x01, 0x00, 0x5A, 0x76, 0x99]
        = .ok (.cmdFlashLoaderBegin 0x1234 0x0FF6 1 0x5A 0x76 [0x99]) ∧
      decodeWhole [0xAA, 0x09, 0x34, 0x12, 0xF6, 0x0F, 0x01, 0x00, 0x5A, 0x76, 0x99]
        = .ok (.cmdFlashLoaderWrite 0x1234 0x0FF6 1 0x5A 0x76 [0x99]) ∧
      decodeWhole [0xAA, 0x0A, 0x34, 0x12, 0xF6, 0x0F, 0x01, 0x00, 0x5A, 0x76, 0x99]
        = .ok (.cmdFlashLoaderCheck 0x1234 0x0FF6 1 0x5A 0x76 [0x99]) ∧
      decodeWhole [0xAA, 0x0B, 0x34, 0x12, 0xF6, 0x0F, 0x01, 0x00, 0x5A, 0x76, 0x99]
        = .ok (.cmdFlashLoaderEnd 0x1234 0x0FF6 1 0x5A 0x76 [0x99]) ∧
      decodeWhole [0xAA, 0x0C, 0x34, 0x12, 0xF6, 0x0F, 0x01, 0x00, 0x5A, 0x76, 0x99]
        = .ok (.cmdReadRegister 0x1234 0x0FF6 1 0x5A 0x76 [0x99]) := by exact ⟨rfl, rfl, rfl, rfl, rfl, rfl⟩

/-- Bytes that spell nothing are refused by name (R114, R104; log 6). -/
theorem test_decode_refuses :
    decodeWhole [] = .error .empty ∧ decodeWhole [0x00] = .error (.unassigned 0x00) ∧
      decodeOperation [0x80, 0x00] = .error (.unassigned 0x80) ∧ decodeWhole [0x15, 0x05] = .error .truncated ∧
      decodeWhole [0x85, 0x00] = .error .trailing ∧
      decodeWhole [0xAA, 0x0D, 0x00] = .error (.unassignedCommand 0x0D) ∧
      decodeEnvironment [0x15, 0x05, 0x00] = .error .notAnEvent ∧
      decodeWhole [0x13, 0x07, 0x00, 0x00, 0x02, 0x00, 0x00, 0x00, 0x00] = .error (.badTag 0x02) ∧
      decodeWhole [0x02, 0x01, 0xAA, 0x02, 0x00] = .error (.badTag 0x02) ∧
      decodeWhole [0x02, 0x01, 0xAA] = .error .truncated := by
  exact ⟨rfl, rfl, rfl, rfl, rfl, rfl, rfl, rfl, rfl, rfl⟩

/-- Words of opcode_table.json, zero operands after them; 0x0C is no operation code, so it is read as a command byte. -/
theorem test_table_words :
    decodeTableWord 8 0x11 = some (.rxRead 0) ∧ decodeTableWord 8 0x85 = some .tick ∧
      decodeTableWord 8 0x14 = some (.respond ⟨0, 0, 0, 0, 0, 0, []⟩ [] none 0) ∧
      decodeTableWord 8 0x0C = some (.cmdReadRegister 0 0 0 0 0 []) := by exact ⟨rfl, rfl, rfl, rfl⟩

/-- A placed word is what the next step runs (log 10): SET_NODE_ID completes, and a tick answers. -/
theorem test_withFetchWord_runs :
    step (State.reset.withFetchWord 8 0x15)
        = exec (.setNodeId 0) { State.reset.withFetchWord 8 0x15 with turns := [], active := 0 } ∧
      step (State.reset.withFetchWord 8 0x85) = exec .tick State.reset := by exact ⟨rfl, rfl⟩

/-! ## One step of each instruction -/

/-- V-C1, rows 1 and 7. -/
theorem test_csum :
    lastResult (after (.csum 0x06 0x0007 0x0006 0x00 [0x24, 0x01]) State.reset) = some ⟨.ok, .csum 0xDE⟩ ∧
      lastResult (after (.csum 0x0D 0x1234 0x0FF6 0x5A []) State.reset) = some ⟨.ok, .csum 0x76⟩ := by decide

/-- V-C2: a wrong sync byte is not examined, a trailing byte is ARG, length 0x0401 is FRAME_TOO_LARGE. -/
theorem test_csumVerify :
    lastResult (after (.csumVerify [0xAB, 6, 7, 0, 6, 0, 2, 0, 0, 0xDE, 0x24, 1]) State.reset)
        = some ⟨.ok, .valid true⟩ ∧
      lastResult (after (.csumVerify [0xAA, 6, 7, 0, 6, 0, 2, 0, 0, 0xDE, 0x24, 1, 0xAA]) State.reset)
        = some ⟨.arg, .none⟩ ∧
      lastResult (after (.csumVerify [0xAA, 6, 7, 0, 6, 0, 1, 4, 0, 0]) State.reset)
        = some ⟨.frameTooLarge, .none⟩ := by decide

/-- V-K1, row 4, and V-K2: the same frame fields under BE. -/
theorem test_encodeFrame :
    lastResult (after (.encodeFrame 0x06 0x0102 0x0006 0x00 [0x24, 0x01]) State.reset)
        = some ⟨.ok, .wire [0xAA, 6, 2, 1, 6, 0, 2, 0, 0, 0xDA, 0x24, 1]⟩ ∧
      lastResult (after (.encodeFrame 0x06 0x0007 0x0006 0x00 [0x24, 0x01]) (State.powerOn { wireOrder := .be }))
        = some ⟨.ok, .wire [0xAA, 6, 0, 7, 0, 6, 0, 2, 0, 0xDE, 0x24, 1]⟩ := by decide

/-- V-K3: the reserved bits are kept, a trailing byte is ignored; a length-0 frame is checked at its last header byte. -/
theorem test_decodeFrame :
    lastResult (after (.decodeFrame [0xAA, 6, 7, 0, 6, 0xF0, 2, 0, 0, 0x2E, 0x24, 1, 0xAA]) State.reset)
        = some ⟨.ok, .decoded ⟨6, 7, 0xF006, 2, 0, 0x2E, [0x24, 1]⟩ 12⟩ ∧
      lastResult (after (.decodeFrame [0xAA, 6, 7, 0, 6, 0, 0, 0, 0, 0xDA]) State.reset)
        = some ⟨.checksum, .none⟩ := by decide

/-- V-A1: w_token takes the token with the frame's seq and identifier, and w_enq pushes the bytes. -/
theorem test_txWrite :
    let op : Instr := .txWrite 0x02 0xFFFF 0x0007 0x10 [] 10
    (after op (running ⟨op, .wToken, 10, false, .none⟩)).expSeq = 0x10 ∧
      (after op (running ⟨op, .wToken, 10, false, .none⟩)).expId = 0xFFFF ∧
      (after op (running ⟨op, .wEnq, 10, true, .none⟩)).txq = [0xAA, 2, 0xFF, 0xFF, 7, 0, 0, 0, 0x10, 0xEB] := by decide

/-- V-A4 at its last byte: addressed is false (NODE_ID = UNDEFINED_ID), matched true, and the token is given back. -/
theorem test_rxRead :
    let s : State := { running ⟨.rxRead 5, .rRecv, 5, false, .none⟩ with
      rxLock := some 0, ackPending := true, expId := 7
      rxBuf := [0xAA, 6, 7, 0, 4, 0, 6, 0, 0, 0x27, 0x24, 1, 0, 0, 0xC0], rxFifo := [0x3F] }
    lastResult (after (.rxRead 5) s)
        = some ⟨.ok, .received ⟨6, 7, 4, 6, 0, 0x27, [0x24, 1, 0, 0, 0xC0, 0x3F]⟩ false true⟩ ∧
      (after (.rxRead 5) s).ackPending = false := by decide

/-- V-A7: DRIVER comes first, and the read flushes and gives the token back. -/
theorem test_rxRead_driver :
    let s : State := { running ⟨.rxRead 5, .rRecv, 5, false, .none⟩ with
      rxLock := some 0, ackPending := true, rxErrPending := true, rxFifo := [0xAA, 6] }
    lastResult (after (.rxRead 5) s) = some ⟨.driver, .none⟩ ∧ (after (.rxRead 5) s).rxFifo = [] ∧
      (after (.rxRead 5) s).ackPending = false := by decide

/-- R174, R185: after the enqueue the read half starts with a fresh timeout. -/
theorem test_requestFrom :
    let op : Instr := .requestFrom 0x06 0x0007 0x0006 0x00 [0x24, 0x01] 100
    current (after op (running ⟨op, .wEnq, 3, true, .none⟩)) = some ⟨op, .rLock, 100, false, .none⟩ := by decide

/-- V-Q1: TX_SEQ 0xFF is carried and wraps to 0; node 0xFFFF sets the broadcast bit; sub is none at issue (R169). -/
theorem test_sendRequest :
    let op : Instr := .sendRequest 0x0007 [0x40, 0x01] true 10
    let s : State := { running ⟨op, .wEnq, 10, true, .none⟩ with txSeq := 0xFF }
    (after op s).txq = [0xAA, 6, 7, 0, 6, 0, 2, 0, 0xFF, 0x45, 0x40, 1] ∧ (after op s).txSeq = 0 ∧
      (requestFrame State.reset 0xFFFF [0x04] true).flags = 0x0007 ∧
      current (after (.sendRequest 0xFFFF [0x04] true 10) State.reset)
        = some ⟨.sendRequest 0xFFFF [0x04] true 10, .wLock, 10, false, .none⟩ := by decide

/-- V-Q5, row 2, and the request without ack, which is answered by nothing. -/
theorem test_respond :
    let op : Instr := .respond ⟨6, 7, 6, 2, 0, 0xDE, [0x24, 1]⟩ [0x7F] (some 0x01) 10
    current (after op State.reset) = some ⟨op, .wLock, 10, false, .none⟩ ∧
      (after op (running ⟨op, .wEnq, 10, false, .none⟩)).txq
        = [0xAA, 6, 7, 0, 0x1C, 0, 1, 0, 0, 0x9D, 0x7F] ∧
      lastResult (after (.respond ⟨6, 7, 2, 0, 0, 0, []⟩ [0x7F] none 10) State.reset) = some ⟨.ok, .none⟩ := by decide

/-- V-Q6. -/
theorem test_setNodeId :
    (after (.setNodeId 0x0005) State.reset).nodeId = 5 ∧
      addressed (after (.setNodeId 0x0005) State.reset) ⟨6, 5, 6, 0, 0, 0, []⟩ = true ∧
      addressed (after (.setNodeId 0x0005) State.reset) ⟨6, 7, 6, 0, 0, 0, []⟩ = false := by decide

/-- V-N1: len 9 and id 0x800 are ARG, id 0x7FF is not; bytes at or beyond len are sent as 0. -/
theorem test_canWrite :
    lastResult (after (.canWrite eventData 0x005 9 10) State.reset) = some ⟨.arg, .none⟩ ∧
      lastResult (after (.canWrite eventData 0x800 8 10) State.reset) = some ⟨.arg, .none⟩ ∧
      (current (after (.canWrite eventData 0x7FF 8 10) State.reset)).isSome = true ∧
      (after (.canWrite eventData 0x005 1 10)
          (running ⟨.canWrite eventData 0x005 1 10, .cEnq, 10, false, .none⟩)).canTxq
        = [⟨0x005, 1, ⟨0x10, 0, 0, 0, 0, 0, 0, 0⟩⟩] := by decide

/-- V-N2. -/
theorem test_canRead :
    let s : State := { running ⟨.canRead 0, .cDeq, 0, false, .none⟩ with
      canLock := some 0, canRxq := [⟨0x005, 8, eventData⟩] }
    lastResult (after (.canRead 0) s) = some ⟨.ok, .canMsg ⟨0x005, 8, eventData⟩⟩ ∧
      (after (.canRead 0) s).canRxq = [] ∧
      lastResult (after (.canRead 0) { s with canRxq := [] }) = some ⟨.timeout, .none⟩ := by decide

/-- V-N3, rows 2 and 3. -/
theorem test_canParse :
    lastResult (after (.canParse ⟨0x005, 8, ⟨0x07, 0x10, 0, 0, 0x2A, 0, 0, 0⟩⟩) State.reset)
        = some ⟨.ok, .parsed ⟨0x07, [0x10, 0, 0, 0x2A, 0, 0, 0]⟩ ⟨0x07, 0x10, 0, 0x2A⟩ ⟨0x07, some 5⟩⟩ ∧
      lastResult (after (.canParse ⟨0x005, 7, eventData⟩) State.reset) = some ⟨.canLen, .none⟩ := by decide

/-- V-N4. -/
theorem test_canBuild :
    lastResult (after (.canBuild (.legacy ⟨0x07, 0x10, 0, 0x0000002A⟩)) State.reset)
        = some ⟨.ok, .canData ⟨0x07, 0x10, 0, 0, 0x2A, 0, 0, 0⟩⟩ ∧
      lastResult (after (.canBuild (.generic ⟨0x10, [0x01]⟩)) State.reset) = some ⟨.ok, .canData eventData⟩ ∧
      lastResult (after (.canBuild (.generic ⟨0x10, [1, 2, 3, 4, 5, 6, 7, 8]⟩)) State.reset)
        = some ⟨.arg, .none⟩ := by decide

/-- V-N5, with NODE_ID = 5: both layouts, and an operand of the wrong form. -/
theorem test_sendEvent :
    let s : State := { State.reset with nodeId := 5 }
    let l : State := { State.powerOn { canLayout := .legacy } with nodeId := 5 }
    (current (after (.sendEvent 0x10 (.args [0x01]) 10) s)).map Cur.sub = some (.msg ⟨0x005, 8, eventData⟩) ∧
      (current (after (.sendEvent 0x10 (.data 0x2A) 10) l)).map Cur.sub
        = some (.msg ⟨0x005, 8, ⟨0x07, 0x10, 0, 0, 0x2A, 0, 0, 0⟩⟩) ∧
      lastResult (after (.sendEvent 0x10 (.data 0x2A) 10) s) = some ⟨.arg, .none⟩ := by decide

/-- V-A8: with RX_FIFO_DEPTH = 4 the fifth byte is lost. -/
theorem test_wireRxByte :
    let s : State := { State.powerOn { rxFifoDepth := 4 } with rxFifo := [0xAA, 6, 7] }
    (after (.wireRxByte 0) s).rxFifo = [0xAA, 6, 7, 0] ∧
      (after (.wireRxByte 4) (after (.wireRxByte 0) s)).rxFifo = [0xAA, 6, 7, 0] ∧
      (after (.wireRxByte 4) (after (.wireRxByte 0) s)).rxErrPending = true := by decide

/-- R196, R197, R266: a driver error is pending; the heads of TXQ and CAN_TXQ go out. -/
theorem test_wireRxError_wireTxByte_canTxDone :
    (after .wireRxError State.reset).rxErrPending = true ∧
      (after .wireTxByte { State.reset with txq := [0xAA, 2], wireOut := [1] }).wireOut = [1, 0xAA] ∧
      (after .wireTxByte { State.reset with txq := [0xAA, 2] }).txq = [2] ∧
      (after .canTxDone { State.reset with canTxq := [⟨5, 8, eventData⟩] }).canOut = [⟨5, 8, eventData⟩] := by decide

/-- R265: a full CAN_RXQ drops and counts; a message with data beyond len is no input. -/
theorem test_canRxMsg :
    let full : State := { State.powerOn { canRxqDepth := 1 } with canRxq := [⟨5, 8, eventData⟩] }
    (after (.canRxMsg ⟨6, 2, eventData⟩) State.reset).canRxq = [⟨6, 2, eventData⟩] ∧
      (after (.canRxMsg ⟨6, 2, eventData⟩) full).canRxDrops = 1 ∧
      (after (.canRxMsg ⟨6, 1, eventData⟩) State.reset).canRxq = [] := by decide

/-- R198: a tick counts down, but not an infinite timeout, and not while an operation is due to time out. -/
theorem test_tick :
    (current (after .tick (running ⟨.rxRead 3, .rRecv, 3, false, .none⟩))).map Cur.tmo = some 2 ∧
      (current (after .tick (running ⟨.rxRead 3, .rRecv, tmoInf, false, .none⟩))).map Cur.tmo = some tmoInf ∧
      after .tick (running ⟨.rxRead 3, .rRecv, 0, false, .none⟩) = running ⟨.rxRead 3, .rRecv, 0, false, .none⟩ := by
  decide

/-- V-E3: the abandoned read leaves no result, TXQ is lost, and WIRE_OUT is kept. -/
theorem test_reset :
    let s : State := { running ⟨.rxRead tmoInf, .rRecv, tmoInf, false, .none⟩ with
      rxLock := some 0, txSeq := 2, rxBuf := [0xAA, 6, 7], txq := [1], wireOut := [0xAA], nodeId := 5 }
    after .reset s = { State.reset with wireOut := [0xAA] } := by decide

/-- V-K1's PING frame arrives one byte a step (R67, R168): the first with the row's step, the ninth turn after it
brings the last. The first byte and the second turn's byte, the command, for every row. -/
theorem test_command_frames_arrive :
    let first := after (.cmdPing 0xFFFF 0x0007 0 0x10 0xEB []) State.reset
    first.rxFifo = [0xAA] ∧ first.turns = byteTurns [2, 0xFF, 0xFF, 7, 0, 0, 0, 0x10, 0xEB] ∧
      (match repeatStep 9 first with
        | .next t => t.rxFifo == [0xAA, 2, 0xFF, 0xFF, 7, 0, 0, 0, 0x10, 0xEB] && t.turns == []
        | .fault _ => false
        | .refused _ => false) = true ∧
      ([Instr.cmdNop 7 6 1 0 0 [9], .cmdRestart 7 6 1 0 0 [9], .cmdPing 7 6 1 0 0 [9], .cmdLedCtrl 7 6 1 0 0 [9],
          .cmdDiscover 7 6 1 0 0 [9], .cmdGetBoardInfo 7 6 1 0 0 [9], .cmdRequest 7 6 1 0 0 [9],
          .cmdEvent 7 6 1 0 0 [9], .cmdFlashLoaderBegin 7 6 1 0 0 [9], .cmdFlashLoaderWrite 7 6 1 0 0 [9],
          .cmdFlashLoaderCheck 7 6 1 0 0 [9], .cmdFlashLoaderEnd 7 6 1 0 0 [9], .cmdReadRegister 7 6 1 0 0 [9]].map
        fun i => (after i State.reset).turns)
        = (List.range 13).map fun n => byteTurns [BitVec.ofNat 8 n, 7, 0, 6, 0, 1, 0, 0, 0, 9] := by decide

/-! ## States and operands that meet the statements' hypotheses, clause by clause, at boundary values -/

theorem witness_DecodeInvertsEncode :
    (Instr.cmdPing 7 6 1 0 0 [9]).wf = true ∧ (Instr.csum 6 7 6 0 [0x24]).wf = true ∧ Instr.tick.wf = true := by decide

theorem witness_EncodeInvertsDecode :
    decode [0x85, 0x01] = .ok (.tick, [0x01]) ∧
      decode [0xAA, 0x02, 0, 0, 0, 0, 0, 0, 0, 0xFC] = .ok (.cmdPing 0 0 0 0 0xFC [], []) := ⟨rfl, rfl⟩

/-- Task 0's turn, with the descriptor d at its program index. -/
def taskTurn (d : List Byte) : State :=
  { State.reset with tasks := [idleTask [d], free], turns := [.task 0] }

theorem witness_StepRunsTaskOperation :
    (taskTurn [0x15, 0x05, 0x00]).turns = .task 0 :: [] ∧
      (taskTurn [0x15, 0x05, 0x00]).tasks[0]? = some (idleTask [[0x15, 0x05, 0x00]]) ∧
      (idleTask [[0x15, 0x05, 0x00]]).prog[0]? = some [0x15, 0x05, 0x00] ∧
      decodeOperation [0x15, 0x05, 0x00] = .ok (.setNodeId 5) := ⟨rfl, rfl, rfl, rfl⟩

/-- An environment agent's turn. -/
def envTurn (d : List Byte) : State := { State.reset with turns := [.env d] }

theorem witness_StepRunsEnvironmentEvent :
    (envTurn [0x80, 0xAA]).turns = .env [0x80, 0xAA] :: [] ∧ decodeEnvironment [0x80, 0xAA] = .ok (.wireRxByte 0xAA) :=
  ⟨rfl, rfl⟩

/-- Each range of codes, at both its ends. -/
theorem witness_IllegalCodeCompletesIllegalOp :
    ([0x00, 0x05, 0x0F, 0x16, 0x1F, 0x25, 0xFF] : List Byte).all (fun b =>
      (taskTurn [b]).turns == [.task 0] && (taskTurn [b]).tasks[0]? == some (idleTask [[b]]) &&
        (idleTask [[b]]).cur == none && (idleTask [[b]]).prog[0]? == some [b] &&
        decide (b.toNat = 0x00 ∨ (0x05 ≤ b.toNat ∧ b.toNat ≤ 0x0F) ∨ (0x16 ≤ b.toNat ∧ b.toNat ≤ 0x1F) ∨
          0x25 ≤ b.toNat)) = true := by decide

/-- The first and the last unassigned command, RX_FIFO full and empty. -/
theorem witness_UnassignedCommandFrameArrives :
    (envTurn [0xAA, 0x0D, 0x01]).turns = .env (0xAA :: 0x0D :: [0x01]) :: [] ∧ 0x0D ≤ (0x0D : Byte).toNat ∧
      0x0D ≤ (0xFF : Byte).toNat ∧ (envTurn [0xAA, 0x0D, 0x01]).rxFifo.length ≤ (envTurn []).cfg.rxFifoDepth ∧
      (List.replicate 64 (0 : Byte)).length ≤ (envTurn []).cfg.rxFifoDepth := by decide

theorem witness_OnlyUnspelledBytesStop :
    step (envTurn [0x15]) = .refused (.unspelled .notAnEvent) ∧
      step (taskTurn [0x15]) = .refused (.unspelled .truncated) := ⟨rfl, rfl⟩

/-- 1024 payload bytes are legal and 1025 are not (V-K4, V-K5). -/
theorem payload_1024 : (List.replicate 1024 (0 : Byte)).length ≤ State.reset.cfg.maxPayload := by
  rw [List.length_replicate]
  decide

theorem payload_1025 : State.reset.cfg.maxPayload < (List.replicate 1025 (0 : Byte)).length := by
  rw [List.length_replicate]
  decide

theorem witness_CsumCompletesWithClosedForm :
    Idle State.reset free ∧ State.reset.cfg.maxPayload < (List.replicate 1025 (0 : Byte)).length ∧
      (List.replicate 1024 (0 : Byte)).length ≤ State.reset.cfg.maxPayload := ⟨idle_reset, payload_1025, payload_1024⟩

/-- Each outcome of the chain: 9 bytes, length 0x0401, 11 of 12 bytes, 13 of 12 bytes, and 12; under BE too. -/
theorem witness_CsumVerifyChecksInOrder :
    Idle State.reset free ∧
      2 = (match State.reset.cfg.wireOrder with
        | .le => (([0xAA, 6, 7, 0, 6, 0, 2, 0, 0, 0xDE, 0x24, 1] : List Byte).getD 6 0).toNat
            + 256 * (([0xAA, 6, 7, 0, 6, 0, 2, 0, 0, 0xDE, 0x24, 1] : List Byte).getD 7 0).toNat
        | .be => 0) ∧
      State.reset.cfg.hdrLen + 2 = 12 ∧ 9 < State.reset.cfg.hdrLen ∧ State.reset.cfg.maxPayload < 0x0401 ∧
      Idle (State.powerOn { wireOrder := .be }) free := ⟨idle_reset, by decide, by decide, by decide, by decide, by decide, by decide⟩

theorem witness_EncodeEmitsWireLayout :
    Idle State.reset free ∧ State.reset.cfg.maxPayload < (List.replicate 1025 (0 : Byte)).length ∧
      (List.replicate 1024 (0 : Byte)).length ≤ State.reset.cfg.maxPayload := ⟨idle_reset, payload_1025, payload_1024⟩

theorem witness_DecodeAndVerifyAcceptEncodedFrame :
    Idle State.reset free ∧ State.reset.cfg.legal = true ∧
      (List.replicate 1024 (0 : Byte)).length ≤ State.reset.cfg.maxPayload := ⟨idle_reset, by decide, payload_1024⟩

theorem witness_DecodeTakesFramesOneByOne :
    Idle State.reset free ∧ State.reset.cfg.legal = true ∧ requestOut.data.length ≤ State.reset.cfg.maxPayload ∧
      ∃ w : List Byte, w = wireFrame State.reset.cfg 6 7 6 0 [0x40, 1] ++ wireFrame State.reset.cfg 6 7 6 0 [0x40, 1] :=
  ⟨idle_reset, by decide, by decide, _, rfl⟩

theorem witness_DecodeFailures :
    Idle State.reset free ∧ State.reset.cfg.legal = true ∧ (0xAB : Byte) ≠ State.reset.cfg.sync ∧
      State.reset.cfg.maxPayload < (0x0401 : U16).toNat ∧ ([] : List Byte).length ≤ State.reset.cfg.maxPayload ∧
      (0xDA : Byte) ≠ closedCsum State.reset.cfg 6 7 6 0 0 [] ∧ 9 < 10 + ([] : List Byte).length :=
  ⟨idle_reset, by decide, by decide, by decide, by decide, by decide, by decide⟩

/-- The first and the last byte that the check covers. -/
theorem witness_SingleByteChangeDetected :
    let b : List Byte := [0xAA, 6, 7, 0, 6, 0, 2, 0, 0, 0xDE, 0x24, 1]
    10 ≤ b.length ∧ 1 ≤ 1 ∧ 11 < b.length ∧ (7 : Byte) ≠ b.getD 1 0 ∧ (0 : Byte) ≠ b.getD 11 0 ∧
      csumOk State.reset.cfg b = true := by decide

theorem witness_ChecksumOkIsFoldToSeed :
    10 ≤ ([0xAA, 6, 7, 0, 6, 0, 0, 0, 0, 0xF9] : List Byte).length ∧
      ([0xAA, 6, 7, 0, 6, 0, 0, 0, 0, 0xF9] : List Byte).getD 0 0 = State.reset.cfg.sync := by decide

theorem witness_LegalWritesBecomeCurrent :
    Idle State.reset free ∧ (List.replicate 1024 (0 : Byte)).length ≤ State.reset.cfg.maxPayload ∧
      (0x0004 : U16).getLsbD 2 = true := ⟨idle_reset, payload_1024, by decide⟩

theorem witness_WriteIssueChecks :
    Idle State.reset free ∧ State.reset.cfg.maxPayload < (List.replicate 1025 (0 : Byte)).length ∧
      (0x0004 : U16).getLsbD 2 = true ∧ (0xFFFB : U16).getLsbD 2 = false :=
  ⟨idle_reset, payload_1025, by decide, by decide⟩

/-- TX_WRITE of requestOut. -/
def writeOp (T : U32) : Instr := .txWrite 0x06 0x0007 0x0006 0x00 [0x40, 0x01] T

/-- SEND_REQUEST of requestOut. -/
def sendOp (ack : Bool) (T : U32) : Instr := .sendRequest 0x0007 [0x40, 0x01] ack T

/-- The operation op, writing requestOut, in a phase. -/
def writing (op : Instr) (ph : Phase) (T : U32) (got : Bool) : Cur := ⟨op, ph, T, got, .none⟩

theorem witness_WriteTakesLockThenToken :
    (Running (running (writing (writeOp 1) .wLock 1 false)) (runner (writing (writeOp 1) .wLock 1 false))
        (writing (writeOp 1) .wLock 1 false) ∧ (running (writing (writeOp 1) .wLock 1 false)).txLock = none) ∧
      (Running (running (writing (sendOp true 1) .wToken 1 false)) (runner (writing (sendOp true 1) .wToken 1 false))
        (writing (sendOp true 1) .wToken 1 false) ∧
        (running (writing (sendOp true 1) .wToken 1 false)).ackPending = false) ∧
      ∀ s : State, writtenFrame s (writeOp 1) = some requestOut ∧ (writtenFrame s (sendOp true 1)).isSome = true :=
  ⟨⟨running_runner _, rfl⟩, ⟨running_runner _, rfl⟩, fun _ => ⟨rfl, rfl⟩⟩

/-- TXQ with exactly 12 bytes free, as many as requestOut's frame takes. -/
def justRoom (c : Cur) : State := { running c with txq := List.replicate 2036 0x00 }

/-- TXQ with 11 bytes free. -/
def noRoom (c : Cur) : State := { running c with txq := List.replicate 2037 0x00 }

theorem justRoom_fits (c : Cur) :
    (justRoom c).cfg.hdrLen + requestOut.data.length ≤ (justRoom c).cfg.txqCap - (justRoom c).txq.length := by
  show 10 + 2 ≤ 2048 - (List.replicate 2036 (0 : Byte)).length
  rw [List.length_replicate]

theorem noRoom_full (c : Cur) :
    (noRoom c).cfg.txqCap - (noRoom c).txq.length < (noRoom c).cfg.hdrLen + requestOut.data.length := by
  show 2048 - (List.replicate 2037 (0 : Byte)).length < 10 + 2
  rw [List.length_replicate]
  decide

theorem justRoom_running (c : Cur) : Running (justRoom c) (runner c) c := ⟨rfl, rfl⟩

theorem noRoom_running (c : Cur) : Running (noRoom c) (runner c) c := ⟨rfl, rfl⟩

/-- Each operation's clause, with the frame just fitting; and the largest legal frame. -/
theorem witness_EnqueuePushesWholeFrame :
    (∀ op ∈ [writeOp 1, .respond ⟨6, 7, 6, 0, 0, 0, []⟩ [0x40, 0x01] none 1, .requestFrom 6 7 6 0 [0x40, 0x01] 1,
        sendOp true 1, sendOp false 1],
      Running (justRoom (writing op .wEnq 1 false)) (runner (writing op .wEnq 1 false)) (writing op .wEnq 1 false) ∧
        (writing op .wEnq 1 false).op = op ∧ (writing op .wEnq 1 false).phase = .wEnq ∧
        requestOut.data.length ≤ (justRoom (writing op .wEnq 1 false)).cfg.maxPayload ∧
        (justRoom (writing op .wEnq 1 false)).cfg.hdrLen + requestOut.data.length
          ≤ (justRoom (writing op .wEnq 1 false)).cfg.txqCap - (justRoom (writing op .wEnq 1 false)).txq.length) ∧
      ({} : Config).legal = true ∧ (List.replicate 1024 (0 : Byte)).length ≤ ({} : Config).maxPayload :=
  ⟨fun op _ => ⟨justRoom_running _, rfl, rfl, Nat.le_of_ble_eq_true rfl, justRoom_fits _⟩, by decide, payload_1024⟩

theorem witness_WriteTimeoutGivesBack :
    isWriteOp (writeOp 0) = true ∧
      (Running { running (writing (writeOp 0) .wLock 0 false) with txLock := some 1 }
        (runner (writing (writeOp 0) .wLock 0 false)) (writing (writeOp 0) .wLock 0 false) ∧ some 1 ≠ (none : Option Nat)) ∧
      (Running { running (writing (writeOp 0) .wToken 0 false) with txLock := some 0, ackPending := true }
        (runner (writing (writeOp 0) .wToken 0 false)) (writing (writeOp 0) .wToken 0 false)) ∧
      (Running (noRoom (writing (writeOp 0) .wEnq 0 true)) (runner (writing (writeOp 0) .wEnq 0 true))
        (writing (writeOp 0) .wEnq 0 true) ∧
        ∀ f, writtenFrame (noRoom (writing (writeOp 0) .wEnq 0 true)) (writeOp 0) = some f →
          (noRoom (writing (writeOp 0) .wEnq 0 true)).cfg.txqCap - (noRoom (writing (writeOp 0) .wEnq 0 true)).txq.length
            < (noRoom (writing (writeOp 0) .wEnq 0 true)).cfg.hdrLen + f.data.length) :=
  ⟨rfl, ⟨⟨rfl, rfl⟩, by simp⟩, ⟨rfl, rfl⟩, noRoom_running _, by rintro f ⟨⟩; exact noRoom_full _⟩

/-- T = 0 is among the timeouts; flags 0x0002 need no token, 0x0006 do. -/
theorem witness_UnblockedTxWriteCompletes :
    Idle State.reset free ∧ ([0x40, 0x01] : List Byte).length ≤ State.reset.cfg.maxPayload ∧
      State.reset.txLock = none ∧
      State.reset.cfg.hdrLen + ([0x40, 0x01] : List Byte).length ≤ State.reset.cfg.txqCap - State.reset.txq.length ∧
      needsToken 0x0002 = false ∧ needsToken 0x0006 = true ∧ State.reset.ackPending = false :=
  ⟨idle_reset, by decide, by decide, by decide, by decide, by decide, by decide⟩

/-- A reading operation in a phase. -/
def reading (op : Instr) (ph : Phase) (T : U32) : Cur := ⟨op, ph, T, false, .none⟩

theorem witness_ReadIssuesAndTakesLock :
    Idle State.reset free ∧
      (∀ op ∈ [Instr.rxRead 1, .requestFrom 6 7 6 0 [] 1, sendOp true 1],
        Running (running (reading op .rLock 1)) (runner (reading op .rLock 1)) (reading op .rLock 1) ∧
          isReadOp op = true) ∧ State.reset.rxLock = none :=
  ⟨idle_reset, fun op h => ⟨running_runner _, by revert op; decide⟩, rfl⟩

/-- RX_READ receiving, with bytes already in the decoder and bytes waiting. -/
def receiving (op : Instr) (buf fifo : List Byte) : State :=
  { running (reading op .rRecv 1) with rxLock := some 0, rxBuf := buf, rxFifo := fifo }

theorem receiving_running (op : Instr) (buf fifo : List Byte) :
    Running (receiving op buf fifo) (runner (reading op .rRecv 1)) (reading op .rRecv 1) := ⟨rfl, rfl⟩

/-- Each clause: the sync byte, the ninth byte, the tenth byte of a frame with payload, and its next to last byte. -/
theorem witness_ReadKeepsPartialFrame :
    let c : Config := {}
    (([] : List Byte) = [] ∧ (0xAA : Byte) = c.sync) ∧ ([0xAA, 6, 7, 0, 6, 0, 2, 0] : List Byte).length + 1 < c.hdrLen ∧
      (c.hdrLen ≤ ([0xAA, 6, 7, 0, 6, 0, 2, 0, 0] : List Byte).length + 1 ∧
        lengthField c ([0xAA, 6, 7, 0, 6, 0, 2, 0, 0] ++ [0xDE]) ≤ c.maxPayload ∧
        ([0xAA, 6, 7, 0, 6, 0, 2, 0, 0] : List Byte).length + 1
          < c.hdrLen + lengthField c ([0xAA, 6, 7, 0, 6, 0, 2, 0, 0] ++ [0xDE])) ∧
      ([0xAA, 6, 7, 0, 6, 0, 2, 0, 0, 0xDE] : List Byte).length + 1
        < c.hdrLen + lengthField c ([0xAA, 6, 7, 0, 6, 0, 2, 0, 0, 0xDE] ++ [0x24]) ∧
      (∀ buf b, Running (receiving (.rxRead 1) buf [b]) (runner (reading (.rxRead 1) .rRecv 1))
        (reading (.rxRead 1) .rRecv 1) ∧ (receiving (.rxRead 1) buf [b]).rxErrPending = false ∧
        (receiving (.rxRead 1) buf [b]).rxFifo = b :: [] ∧ (receiving (.rxRead 1) buf [b]).rxBuf = buf ∧
        (receiving (.rxRead 1) buf [b]).cfg = c) ∧ isReadOp (.rxRead 1) = true :=
  ⟨by decide, by decide, by decide, by decide, fun _ _ => ⟨receiving_running _ _ _, rfl, rfl, rfl, rfl⟩, rfl⟩

/-- The response of V-A5 without its last byte. -/
def almostResponse : List Byte := [0xAA, 6, 7, 0, 4, 0, 2, 0, 0, 0xDC, 0x24]

/-- Each operation's clause: SEQ_STRICT with a frame that matches, and without it. -/
theorem witness_ReadCompletesOnWholeFrame :
    (∀ op ∈ [Instr.rxRead 1, .requestFrom 6 7 6 0 [] 1, sendOp true 1],
      Running (receiving op almostResponse [1]) (runner (reading op .rRecv 1)) (reading op .rRecv 1) ∧
        (receiving op almostResponse [1]).rxErrPending = false ∧ (receiving op almostResponse [1]).rxFifo = 1 :: [] ∧
        (receiving op almostResponse [1]).cfg.legal = true ∧
        (receiving op almostResponse [1]).rxBuf ++ [1]
          = wireFrame (receiving op almostResponse [1]).cfg 6 7 4 0 [0x24, 1]) ∧
      State.reset.cfg.seqStrict = false ∧
      matched { State.powerOn { seqStrict := true } with ackPending := true, expId := 7 } ⟨6, 7, 4, 2, 0, 0xDC, [0x24, 1]⟩
        = true :=
  ⟨fun op _ => ⟨receiving_running _ _ _, rfl, rfl, (by decide : ({} : Config).legal = true),
    (by decide : almostResponse ++ [1] = wireFrame {} 6 7 4 0 [0x24, 1])⟩, by decide, by decide⟩

theorem witness_StrictReadSkipsUnmatchedFrame :
    let s : State := { receiving (sendOp true 1) almostResponse [1] with cfg := { seqStrict := true } }
    Running s (runner (reading (sendOp true 1) .rRecv 1)) (reading (sendOp true 1) .rRecv 1) ∧
      s.rxErrPending = false ∧ s.rxFifo = 1 :: [] ∧ s.cfg.legal = true ∧
      s.rxBuf ++ [1] = wireFrame s.cfg 6 7 4 0 [0x24, 1] ∧ s.cfg.seqStrict = true ∧ ¬ s.ackPending = true ∧
      (∃ node payload ack T, sendOp true 1 = .sendRequest node payload ack T) :=
  ⟨⟨rfl, rfl⟩, rfl, rfl, by decide, by decide, rfl, by decide, _, _, _, _, rfl⟩

theorem witness_DriverErrorFailsReadFirst :
    let s : State := { receiving (.rxRead 1) [] [0xAA] with rxErrPending := true }
    Running s (runner (reading (.rxRead 1) .rRecv 1)) (reading (.rxRead 1) .rRecv 1) ∧ isReadOp (.rxRead 1) = true ∧
      s.rxErrPending = true := ⟨⟨rfl, rfl⟩, rfl, rfl⟩

/-- Each clause: a first byte that is not SYNC, the tenth byte of a header with length 0x0401, a wrong checksum. -/
theorem witness_BadByteFailsReadAndFlushes :
    let c : Config := {}
    (∀ buf b, Running (receiving (.rxRead 1) buf [b]) (runner (reading (.rxRead 1) .rRecv 1))
        (reading (.rxRead 1) .rRecv 1) ∧ (receiving (.rxRead 1) buf [b]).rxErrPending = false ∧
        (receiving (.rxRead 1) buf [b]).rxFifo = b :: [] ∧ (receiving (.rxRead 1) buf [b]).rxBuf = buf ∧
        (receiving (.rxRead 1) buf [b]).cfg = c) ∧
      isReadOp (.rxRead 1) = true ∧ c.legal = true ∧ (0xAB : Byte) ≠ c.sync ∧
      ([0xAA, 6, 7, 0, 6, 0, 1, 4, 0] : List Byte).length + 1 = c.hdrLen ∧
      c.maxPayload < lengthField c ([0xAA, 6, 7, 0, 6, 0, 1, 4, 0] ++ [0]) ∧
      almostResponse ++ [0] = frameWith c 6 7 4 (BitVec.ofNat 16 ([0x24, 0] : List Byte).length) 0 0xDC [0x24, 0] ∧
      (0xDC : Byte) ≠ closedCsum c 6 7 4 (BitVec.ofNat 16 ([0x24, 0] : List Byte).length) 0 [0x24, 0] :=
  ⟨fun _ _ => ⟨receiving_running _ _ _, rfl, rfl, rfl, rfl⟩, rfl, by decide, by decide, by decide, by decide, by decide,
    by decide⟩

theorem witness_ReadTimeoutGivesTokenBack :
    (Running { running (reading (.rxRead 0) .rLock 0) with rxLock := some 1 } (runner (reading (.rxRead 0) .rLock 0))
        (reading (.rxRead 0) .rLock 0) ∧ some 1 ≠ (none : Option Nat)) ∧
      (Running { running (reading (.rxRead 0) .rRecv 0) with rxLock := some 0 } (runner (reading (.rxRead 0) .rRecv 0))
        (reading (.rxRead 0) .rRecv 0) ∧ (running (reading (.rxRead 0) .rRecv 0)).rxErrPending = false ∧
        (running (reading (.rxRead 0) .rRecv 0)).rxFifo = []) ∧ isReadOp (.rxRead 0) = true :=
  ⟨⟨⟨rfl, rfl⟩, by simp⟩, ⟨⟨rfl, rfl⟩, rfl, rfl⟩, rfl⟩

/-- A whole frame and a byte after it. -/
theorem witness_ReadOfEncodedFrameCompletes :
    let s := receiving (.rxRead 1) [] (wireFrame {} 6 7 4 0 [0x24, 1] ++ [0xAA])
    let f : Frame := frameRecord s.cfg 6 7 4 0 [0x24, 1]
    Running s (runner (reading (.rxRead 1) .rRecv 1)) (reading (.rxRead 1) .rRecv 1) ∧ s.rxErrPending = false ∧
      s.rxBuf = [] ∧ s.cfg.legal = true ∧ ([0x24, 1] : List Byte).length ≤ s.cfg.maxPayload ∧
      s.rxFifo = wireFrame s.cfg 6 7 4 0 [0x24, 1] ++ [0xAA] ∧ f.length = 2 ∧
      repeatExec (.rxRead 1) 12 s = .next (completed { s with rxFifo := [0xAA], rxLock := none, ackPending := false }
        (runner (reading (.rxRead 1) .rRecv 1)) .ok (.received f (addressed s f) (matched s f))) :=
  ⟨⟨rfl, rfl⟩, rfl, rfl, by decide, by decide, rfl, rfl, rfl⟩

/-- A state in which every wait point is blocked. -/
def allBlocked (c : Cur) : State :=
  { noRoom c with
    txLock := some 1, ackPending := true, rxLock := some 1, canLock := some 1, canTxq := List.replicate 4 ⟨5, 8, eventData⟩ }

/-- Each phase, with an operation that uses it. -/
theorem witness_BlockedOperationWaits :
    (∀ c ∈ [writing (writeOp 1) .wLock 1 false, writing (writeOp 1) .wToken 1 false, writing (writeOp 1) .wEnq 1 true,
        reading (.rxRead 1) .rLock 1, reading (.rxRead 1) .rRecv 1, reading (.canRead 1) .cLock 1,
        ⟨.canWrite eventData 5 8 1, .cEnq, 1, false, .none⟩, reading (.canRead 1) .cDeq 1],
      Running (allBlocked c) (runner c) c ∧ usesPhase c.op c.phase = true ∧ c.tmo ≠ 0 ∧
        (∀ f, writtenFrame (allBlocked c) c.op = some f → f = requestOut)) ∧
      (∀ c, (allBlocked c).txLock ≠ none ∧ (allBlocked c).ackPending = true ∧
        (allBlocked c).cfg.txqCap - (allBlocked c).txq.length < (allBlocked c).cfg.hdrLen + requestOut.data.length ∧
        (allBlocked c).rxLock ≠ none ∧ (allBlocked c).rxErrPending = false ∧ (allBlocked c).rxFifo = [] ∧
        (allBlocked c).canLock ≠ none ∧ (allBlocked c).cfg.canTxqDepth ≤ (allBlocked c).canTxq.length ∧
        (allBlocked c).canRxq = []) := by
  refine ⟨fun c h => ⟨⟨rfl, rfl⟩, ?_, ?_, ?_⟩, fun c => ⟨by simp [allBlocked], rfl, noRoom_full c, by simp [allBlocked],
    rfl, rfl, by simp [allBlocked], Nat.le_refl 4, rfl⟩⟩
  · revert c; decide
  · revert c; decide
  · intro f hf
    simp [writing, reading] at h
    rcases h with rfl | rfl | rfl | rfl | rfl | rfl | rfl | rfl <;> cases hf <;> rfl

theorem witness_SetNodeIdWritesNodeId :
    Idle State.reset free ∧ (1 : U16) ≠ State.reset.cfg.undefinedId ∧
      (⟨6, 1, 6, 0, 0, 0, []⟩ : Frame).identifier = 1 := ⟨idle_reset, by decide, rfl⟩

/-- len 7, 8 and 9; ids on both sides of 2^16; both byte orders. -/
theorem witness_CanParseGivesBothViews :
    Idle State.reset free ∧ (7 : BitVec 4).toNat ≠ State.reset.cfg.canFrameBytes ∧
      (9 : BitVec 4).toNat ≠ State.reset.cfg.canFrameBytes ∧ (8 : BitVec 4).toNat = State.reset.cfg.canFrameBytes ∧
      (0xFFFF : U32).toNat < 65536 ∧ 65536 ≤ (0x10000 : U32).toNat ∧ State.reset.cfg.wireOrder = .le ∧
      Idle (State.powerOn { wireOrder := .be }) free :=
  ⟨idle_reset, by decide, by decide, by decide, by decide, by decide, by decide, by decide, by decide⟩

theorem witness_CanBuildLaysOutBytes :
    Idle State.reset free ∧ 7 < ([1, 2, 3, 4, 5, 6, 7, 8] : List Byte).length ∧
      ([1, 2, 3, 4, 5, 6, 7] : List Byte).length ≤ 7 := ⟨idle_reset, by decide, by decide⟩

theorem witness_CanParseInvertsCanBuild :
    Idle State.reset free ∧ State.reset.cfg.canFrameBytes = 8 ∧ ([1, 2, 3, 4, 5, 6, 7] : List Byte).length ≤ 7 :=
  ⟨idle_reset, by decide, by decide⟩

theorem witness_CanIssueChecks :
    Idle State.reset free ∧ State.reset.cfg.canFrameBytes < (9 : BitVec 4).toNat ∧
      2 ^ State.reset.cfg.canIdBits.width ≤ (0x800 : U32).toNat ∧
      (8 : BitVec 4).toNat ≤ State.reset.cfg.canFrameBytes ∧
      (0x7FF : U32).toNat < 2 ^ State.reset.cfg.canIdBits.width :=
  ⟨idle_reset, by decide, by decide, by decide, by decide⟩

/-- Each clause: a wrong form under either layout, eight args, NODE_ID 0x800 and 0x7FF, seven args. -/
theorem witness_SendEventBuildsMessage :
    Idle { State.reset with nodeId := 0x7FF } free ∧ Idle { State.reset with nodeId := 0x800 } free ∧
      Idle (State.powerOn { canLayout := .legacy }) free ∧ State.reset.cfg.canFrameBytes = 8 ∧
      State.reset.cfg.canLayout = .generic ∧ 7 < ([1, 2, 3, 4, 5, 6, 7, 8] : List Byte).length ∧
      2 ^ State.reset.cfg.canIdBits.width ≤ (0x800 : U16).toNat ∧
      (0x7FF : U16).toNat < 2 ^ State.reset.cfg.canIdBits.width ∧ ([1, 2, 3, 4, 5, 6, 7] : List Byte).length ≤ 7 :=
  ⟨⟨by decide, by decide⟩, ⟨by decide, by decide⟩, ⟨by decide, by decide⟩, by decide, by decide, by decide, by decide,
    by decide, by decide⟩

/-- CAN_WRITE in a phase. -/
def canSending (ph : Phase) (T : U32) : Cur := ⟨.canWrite eventData 5 8 T, ph, T, false, .none⟩

/-- SEND_EVENT in a phase, with its message. -/
def eventSending (ph : Phase) (T : U32) : Cur :=
  ⟨.sendEvent 0x10 (.args [0x01]) T, ph, T, false, .msg ⟨5, 8, eventData⟩⟩

theorem witness_CanLockTaken :
    Running (running (canSending .cLock 1)) (runner (canSending .cLock 1)) (canSending .cLock 1) ∧
      isCanSendOp (canSending .cLock 1).op = true ∧ isCanSendOp (eventSending .cLock 1).op = true ∧
      Running (running (reading (.canRead 1) .cLock 1)) (runner (reading (.canRead 1) .cLock 1))
        (reading (.canRead 1) .cLock 1) ∧ isCanReadOp (.canRead 1) = true ∧ State.reset.canLock = none :=
  ⟨⟨rfl, rfl⟩, rfl, rfl, ⟨rfl, rfl⟩, rfl, rfl⟩

/-- One place left in CAN_TXQ, for either operation. -/
theorem witness_CanMessageQueued :
    let room (c : Cur) : State := { running c with canTxq := List.replicate 3 ⟨5, 8, eventData⟩ }
    let m : CanMsg := ⟨5, 8, eventData⟩
    (∀ c, Running (room c) (runner c) c ∧ (room c).canTxq.length < (room c).cfg.canTxqDepth) ∧
      (∃ T, (canSending .cEnq 1).op = .canWrite m.data m.id m.len T) ∧ (canSending .cEnq 1).phase = .cEnq ∧
      (∃ event operand T, (eventSending .cEnq 1).op = .sendEvent event operand T) ∧
      (eventSending .cEnq 1).sub = .msg m ∧ (eventSending .cEnq 1).phase = .cEnq :=
  ⟨fun _ => ⟨⟨rfl, rfl⟩, Nat.le_refl 4⟩, ⟨_, rfl⟩, rfl, ⟨_, _, _, rfl⟩, rfl, rfl⟩

theorem witness_CanReadTakesOldestMessage :
    let s : State := { running (reading (.canRead 1) .cDeq 1) with canRxq := [⟨5, 8, eventData⟩, ⟨6, 8, eventData⟩] }
    Running s (runner (reading (.canRead 1) .cDeq 1)) (reading (.canRead 1) .cDeq 1) ∧
      isCanReadOp (.canRead 1) = true ∧ s.canRxq = ⟨5, 8, eventData⟩ :: [⟨6, 8, eventData⟩] := ⟨⟨rfl, rfl⟩, rfl, rfl⟩

theorem witness_CanTimeoutGivesLockBack :
    (Running { running (canSending .cLock 0) with canLock := some 1 } (runner (canSending .cLock 0)) (canSending .cLock 0)
        ∧ some 1 ≠ (none : Option Nat)) ∧
      (Running (allBlocked (canSending .cEnq 0)) (runner (canSending .cEnq 0)) (canSending .cEnq 0) ∧
        (allBlocked (canSending .cEnq 0)).cfg.canTxqDepth ≤ (allBlocked (canSending .cEnq 0)).canTxq.length) ∧
      (Running (running (reading (.canRead 0) .cDeq 0)) (runner (reading (.canRead 0) .cDeq 0))
        (reading (.canRead 0) .cDeq 0) ∧ (running (reading (.canRead 0) .cDeq 0)).canRxq = []) ∧
      isCanSendOp (canSending .cLock 0).op = true ∧ isCanReadOp (.canRead 0) = true ∧ (canSending .cEnq 0).tmo = 0 :=
  ⟨⟨⟨rfl, rfl⟩, by simp⟩, ⟨⟨rfl, rfl⟩, by decide⟩, ⟨⟨rfl, rfl⟩, rfl⟩, rfl, rfl, rfl⟩

/-- 63 and 64 bytes in RX_FIFO. -/
theorem witness_WireByteQueuedOrLost :
    ({ State.reset with rxFifo := List.replicate 63 0 } : State).rxFifo.length < State.reset.cfg.rxFifoDepth ∧
      State.reset.cfg.rxFifoDepth ≤ ({ State.reset with rxFifo := List.replicate 64 0 } : State).rxFifo.length := by decide

theorem witness_QueuedBytesAndMessagesSent :
    ({ State.reset with txq := [0xAA] } : State).txq = 0xAA :: [] ∧
      ({ State.reset with canTxq := [⟨5, 8, eventData⟩] } : State).canTxq = ⟨5, 8, eventData⟩ :: [] := ⟨rfl, rfl⟩

/-- len 8 and len 2, id 0x7FF; three and four messages in CAN_RXQ. -/
theorem witness_CanMessageReceivedOrDropped :
    (8 : BitVec 4).toNat ≤ 8 ∧ (2 : BitVec 4).toNat ≤ 8 ∧ State.reset.cfg.canFrameBytes = 8 ∧
      (0x7FF : U32).toNat < 2 ^ State.reset.cfg.canIdBits.width ∧
      (∀ n, n < 8 → (2 : BitVec 4).toNat ≤ n → (bytes8List eventData).getD n 0 = 0) ∧
      (List.replicate 3 (⟨0x7FF, 2, eventData⟩ : CanMsg)).length < State.reset.cfg.canRxqDepth ∧
      State.reset.cfg.canRxqDepth ≤ (List.replicate 4 (⟨0x7FF, 2, eventData⟩ : CanMsg)).length := by decide

/-- Nothing due, a countdown at 1 and an infinite one; and an operation that is due. -/
theorem witness_TickCountsDownUnlessOneIsDue :
    (∀ tk ∈ (running (reading (.rxRead 1) .rRecv 1)).tasks, ∀ c, tk.cur = some c → c.tmo = 0 →
        progressEnabled (running (reading (.rxRead 1) .rRecv 1)) c = true) ∧
      (reading (.rxRead 1) .rRecv 1).tmo ≠ 0 ∧ (reading (.rxRead 1) .rRecv 1).tmo ≠ 0xFFFFFFFF ∧
      (∃ tk ∈ (running (reading (.rxRead 0) .rRecv 0)).tasks, ∃ c, tk.cur = some c ∧ c.tmo = 0 ∧
        progressEnabled (running (reading (.rxRead 0) .rRecv 0)) c = false) := by
  refine ⟨?_, by decide, by decide, runner (reading (.rxRead 0) .rRecv 0), List.mem_cons_self,
    reading (.rxRead 0) .rRecv 0, rfl, rfl, rfl⟩
  intro tk h c hc ht
  rcases List.mem_cons.mp h with rfl | h
  · cases hc; exact absurd ht (by decide)
  · rcases List.mem_cons.mp h with rfl | h
    · cases hc
    · cases h

/-- RX_FIFO empty and full. -/
theorem witness_CommandFramesArriveAlike :
    State.reset.rxFifo.length ≤ State.reset.cfg.rxFifoDepth ∧
      ({ State.reset with rxFifo := List.replicate 64 0 } : State).rxFifo.length ≤ State.reset.cfg.rxFifoDepth ∧
      ([0xAA] : List Byte) ≠ [] := by decide

/-! ## A state for the rules of the whole machine: task 0 holds TX_LOCK and the token in W_ENQ, TXQ is full and its
timeout is over, so that its turn is an expire step -/

def dueOp : Instr := .txWrite 0x06 0x0007 0x0006 0x00 [] 0

def dueCur : Cur := ⟨dueOp, .wEnq, 0, true, .none⟩

def due : State :=
  { State.powerOn { maxPayload := 0, txqCap := 10 } with
    tasks := [{ idleTask [encode dueOp] with cur := some dueCur }, free]
    txLock := some 0, ackPending := true, expId := 7, txq := [0xAA], turns := [.task 0] }

/-- What the expire step leaves (R173). -/
def dueNext : State :=
  { due with
    tasks := [{ prog := [encode dueOp], tpc := 1, cur := none, results := [⟨.timeout, .none⟩] }, free]
    txLock := none, ackPending := false, turns := [] }

theorem due_step : step due = .next dueNext := rfl

theorem due_curOf (t : Nat) (c : Cur) (h : due.curOf t = some c) : t = 0 ∧ c = dueCur := by
  match t with
  | 0 => exact ⟨rfl, (Option.some.inj h).symm⟩
  | 1 => cases h
  | _ + 2 => cases h

theorem due_not_reset : ¬ StepIsReset due := by
  rintro ⟨s', h⟩
  cases h

theorem due_inv : BlockInv due where
  legal := by decide
  locks :=
    { phases := fun t c h => by rw [(due_curOf t c h).2]; rfl
      txHolder := fun t h => by cases h; exact ⟨dueCur, rfl, rfl, .inr rfl⟩
      txOwner := fun t c h _ => by rw [(due_curOf t c h).1]; rfl
      rxHolder := fun t h => by cases h
      rxOwner := fun t c h hp => by rw [(due_curOf t c h).2] at hp; cases hp
      canHolder := fun t h => by cases h
      canOwner := fun t c h hp => by rw [(due_curOf t c h).2] at hp; rcases hp with hp | hp <;> cases hp
      tokenPhase := fun t c h _ => by rw [(due_curOf t c h).2]; rfl
      oneToken := fun t u c d h1 h2 _ _ => by rw [(due_curOf t c h1).1, (due_curOf u d h2).1] }
  queues := ⟨by decide, by decide, by decide, by decide, by decide, .inl (by decide), fun _ => rfl⟩
  tasks := ⟨rfl, fun tk h => by
    rcases List.mem_cons.mp h with rfl | h
    · rfl
    · rcases List.mem_cons.mp h with rfl | h
      · rfl
      · cases h⟩

theorem witness_StepKeepsBlockInvariant : BlockInv due ∧ step due = .next dueNext := ⟨due_inv, due_step⟩

theorem witness_ResetMeetsBlockInvariant : ({ txqCap := 1034 } : Config).legal = true := by decide

theorem witness_StepKeepsParametersAndPrograms : step due = .next dueNext := due_step

theorem witness_StepCompletesAtMostOneOperation :
    step due = .next dueNext ∧ ¬ StepIsReset due ∧ due.tasks[0]? = some { idleTask [encode dueOp] with cur := some dueCur } ∧
      dueNext.tasks[0]? = some { prog := [encode dueOp], tpc := 1, cur := none, results := [⟨.timeout, .none⟩] } :=
  ⟨due_step, due_not_reset, rfl, rfl⟩

theorem witness_TimeoutOnlyWhenDueAndBlocked :
    step due = .next dueNext ∧ due.tasks[0]? = some { idleTask [encode dueOp] with cur := some dueCur } ∧
      dueNext.tasks[0]? = some { prog := [encode dueOp], tpc := 1, cur := none, results := [⟨.timeout, .none⟩] } ∧
      [⟨.timeout, .none⟩] = (idleTask [encode dueOp]).results ++ [⟨.timeout, .none⟩] := ⟨due_step, rfl, rfl, rfl⟩

/-- The token is out; and, in the second state, an operation takes it. -/
theorem witness_TokenTakenOnlyWhenFree :
    (step due = .next dueNext ∧ ¬ StepIsReset due ∧ due.ackPending = true) ∧
      ∃ t c, exec dueOp (running { dueCur with phase := .wToken, gotToken := false }) = .next t ∧ t.curOf 0 = some c ∧
        c.gotToken = true := ⟨⟨due_step, due_not_reset, rfl⟩, _, _, rfl, rfl, rfl⟩

theorem witness_TokenGivenBackOnlyByReadFailureOrReset :
    BlockInv due ∧ step due = .next dueNext ∧ due.ackPending = true ∧ dueNext.ackPending = false :=
  ⟨due_inv, due_step, rfl, rfl⟩

theorem witness_WireStreamGrowsByWholeFrames : step due = .next dueNext := due_step

theorem witness_CanQueuesKeepArrivalOrder : step due = .next dueNext ∧ ¬ StepIsReset due := ⟨due_step, due_not_reset⟩

theorem witness_NodeIdAndTxSeqWriters : step due = .next dueNext ∧ ¬ StepIsReset due := ⟨due_step, due_not_reset⟩

end Sys2Proof.Tests
end

namespace Sys2Proof.Machine

/-! PROOFS. O51 and O60, from `step_moved`: every step makes one of the changes of `Moved`. The locks, the queues and the
task counts of `BlockInv` are taken one after the other. -/

/-! ## What a change leaves of the tasks (R11, R34)

`Moved` speaks of `completed`, `failed` and `proceeds`; here is what each of them leaves of the acting task's current
operation and of the others'. -/

/-- The record of an operation that fails: a draw for SEND_REQUEST, none for the others (R219, R280). -/
def failureRecord (s : State) (op : Instr) : ResultRecord :=
  if isSendRequest op then .payload (Config.anyPayload s.draws) else .none

/-- A failure is a completion, by which SEND_REQUEST uses up a draw. -/
theorem failed_eq_completed (s : State) (tk : Task) (op : Instr) (st : Status) :
    failed s tk op st
      = completed { s with draws := if isSendRequest op then s.draws + 1 else s.draws } tk st (failureRecord s op) := by
  unfold failed failureRecord
  split <;> rfl

theorem Running.curOf {s : State} {tk : Task} {c : Cur} (h : Running s tk c) : s.curOf s.active = some c := by
  obtain ⟨htk, hcur⟩ := h
  simp [State.curOf, htk, hcur]

theorem Idle.curOf {s : State} {tk : Task} (h : Idle s tk) : s.curOf s.active = none := by
  obtain ⟨htk, hcur⟩ := h
  simp [State.curOf, htk, hcur]

/-- cur of the acting task goes from `old` to `new`, and no other task's cur changes. -/
structure ActorGoes (s t : State) (old new : Option Cur) : Prop where
  before : s.curOf s.active = old
  after : t.curOf s.active = new
  others : ∀ n, n ≠ s.active → t.curOf n = s.curOf n

/-- A completion ends the acting task's operation; `s'` is `s` with the operation's effect. -/
theorem actorGoes_completed {s : State} (s' : State) {old : Option Cur} (h : s.curOf s.active = old)
    (htasks : s'.tasks = s.tasks) (hactive : s'.active = s.active) (tk : Task) (st : Status) (r : ResultRecord) :
    ActorGoes s (completed s' tk st r) old none where
  before := h
  after := by
    simp only [State.curOf, completed, htasks, hactive, List.getElem?_set_self']
    cases s.tasks[s.active]? <;> rfl
  others n hn := by simp [State.curOf, completed, htasks, hactive, List.getElem?_set_ne hn.symm]

theorem actorGoes_proceeds {s : State} (s' : State) {tk : Task} {old : Option Cur} (htk : s.tasks[s.active]? = some tk)
    (h : s.curOf s.active = old) (htasks : s'.tasks = s.tasks) (hactive : s'.active = s.active) (c : Cur) :
    ActorGoes s (proceeds s' tk c) old (some c) where
  before := h
  after := by
    obtain ⟨hlt, _⟩ := List.getElem?_eq_some_iff.mp htk
    simp [State.curOf, proceeds, htasks, hactive, hlt]
  others n hn := by simp [State.curOf, proceeds, htasks, hactive, List.getElem?_set_ne hn.symm]

/-! ## Locks and phases (R38 (a) to (d))

`LocksHeld` in one clause for all three locks: a task holds a lock exactly while it waits in one of the lock's phases. -/

/-- The three locks of R22, R23 and R30. -/
inductive Lock where
  | tx
  | rx
  | can
deriving DecidableEq

/-- The holder of a lock. -/
def State.holder (s : State) : Lock → Option Nat
  | .tx => s.txLock
  | .rx => s.rxLock
  | .can => s.canLock

@[simp] theorem holder_tx (s : State) : s.holder .tx = s.txLock := rfl

@[simp] theorem holder_rx (s : State) : s.holder .rx = s.rxLock := rfl

@[simp] theorem holder_can (s : State) : s.holder .can = s.canLock := rfl

@[simp] theorem holder_completed (s : State) (tk : Task) (st : Status) (r : ResultRecord) (k : Lock) :
    (completed s tk st r).holder k = s.holder k := by cases k <;> rfl

@[simp] theorem holder_proceeds (s : State) (tk : Task) (c : Cur) (k : Lock) :
    (proceeds s tk c).holder k = s.holder k := by cases k <;> rfl

/-- The lock that an operation waiting in a phase holds (R112). -/
@[simp] def Phase.lock : Phase → Option Lock
  | .wLock => none
  | .wToken => some .tx
  | .wEnq => some .tx
  | .rLock => none
  | .rRecv => some .rx
  | .cLock => none
  | .cEnq => some .can
  | .cDeq => some .can

/-- The lock that a task with this cur holds. -/
def lockOf (cur : Option Cur) : Option Lock := cur.bind fun c => c.phase.lock

@[simp] theorem lockOf_none : lockOf none = none := rfl

@[simp] theorem lockOf_some (c : Cur) : lockOf (some c) = c.phase.lock := rfl

theorem lockOf_eq_some_iff {cur : Option Cur} {k : Lock} :
    lockOf cur = some k ↔ ∃ c, cur = some c ∧ c.phase.lock = some k := Option.bind_eq_some_iff

theorem Phase.lock_eq_tx_iff {p : Phase} : p.lock = some .tx ↔ p = .wToken ∨ p = .wEnq := by
  cases p <;> simp

theorem Phase.lock_eq_rx_iff {p : Phase} : p.lock = some .rx ↔ p = .rRecv := by cases p <;> simp

theorem Phase.lock_eq_can_iff {p : Phase} : p.lock = some .can ↔ p = .cEnq ∨ p = .cDeq := by
  cases p <;> simp

/-- An operation is in a phase of its own, and got_token only stands in W_ENQ (R112, R34). -/
def Placed (c : Cur) : Prop := usesPhase c.op c.phase = true ∧ (c.gotToken = true → c.phase = .wEnq)

/-- The invariant of the locks: oneToken follows, for two operations with got_token would both hold TX_LOCK. -/
theorem locksHeld_iff {s : State} :
    LocksHeld s ↔ (∀ n c, s.curOf n = some c → Placed c) ∧ ∀ k n, s.holder k = some n ↔ lockOf (s.curOf n) = some k := by
  constructor
  · intro h
    refine ⟨fun n c hc => ⟨h.phases n c hc, h.tokenPhase n c hc⟩, fun k n => ?_⟩
    rw [lockOf_eq_some_iff]
    cases k with
    | tx =>
      simp only [Phase.lock_eq_tx_iff]
      constructor
      · intro hn
        obtain ⟨c, hc, _, hp⟩ := h.txHolder n hn
        exact ⟨c, hc, hp⟩
      · rintro ⟨c, hc, hp⟩
        exact h.txOwner n c hc hp
    | rx =>
      simp only [Phase.lock_eq_rx_iff]
      constructor
      · intro hn
        obtain ⟨c, hc, _, hp⟩ := h.rxHolder n hn
        exact ⟨c, hc, hp⟩
      · rintro ⟨c, hc, hp⟩
        exact h.rxOwner n c hc hp
    | can =>
      simp only [Phase.lock_eq_can_iff]
      constructor
      · intro hn
        obtain ⟨c, hc, hp⟩ := h.canHolder n hn
        exact ⟨c, hc, hp.imp And.right And.right⟩
      · rintro ⟨c, hc, hp⟩
        exact h.canOwner n c hc hp
  · rintro ⟨hplaced, hlock⟩
    have owner : ∀ k n c, s.curOf n = some c → c.phase.lock = some k → s.holder k = some n :=
      fun k n c hc hk => (hlock k n).mpr (lockOf_eq_some_iff.mpr ⟨c, hc, hk⟩)
    have holds : ∀ k n, s.holder k = some n → ∃ c, s.curOf n = some c ∧ usesPhase c.op c.phase = true ∧
        c.phase.lock = some k := by
      intro k n hn
      obtain ⟨c, hc, hk⟩ := lockOf_eq_some_iff.mp ((hlock k n).mp hn)
      exact ⟨c, hc, (hplaced n c hc).1, hk⟩
    have tokenTx : ∀ n c, s.curOf n = some c → c.gotToken = true → s.txLock = some n :=
      fun n c hc hg => owner .tx n c hc (Phase.lock_eq_tx_iff.mpr (.inr ((hplaced n c hc).2 hg)))
    exact {
      phases := fun n c hc => (hplaced n c hc).1
      txHolder := fun n hn => by
        obtain ⟨c, hc, hu, hk⟩ := holds .tx n hn
        have hp := Phase.lock_eq_tx_iff.mp hk
        exact ⟨c, hc, by rcases hp with hp | hp <;> simpa [hp, usesPhase] using hu, hp⟩
      txOwner := fun n c hc hp => owner .tx n c hc (Phase.lock_eq_tx_iff.mpr hp)
      rxHolder := fun n hn => by
        obtain ⟨c, hc, hu, hk⟩ := holds .rx n hn
        have hp := Phase.lock_eq_rx_iff.mp hk
        exact ⟨c, hc, by simpa [hp, usesPhase] using hu, hp⟩
      rxOwner := fun n c hc hp => owner .rx n c hc (Phase.lock_eq_rx_iff.mpr hp)
      canHolder := fun n hn => by
        obtain ⟨c, hc, hu, hk⟩ := holds .can n hn
        refine ⟨c, hc, (Phase.lock_eq_can_iff.mp hk).imp (fun hp => ⟨?_, hp⟩) fun hp => ⟨?_, hp⟩⟩ <;>
          simpa [hp, usesPhase] using hu
      canOwner := fun n c hc hp => owner .can n c hc (Phase.lock_eq_can_iff.mpr hp)
      tokenPhase := fun n c hc => (hplaced n c hc).2
      oneToken := fun n m c d hc hd hcg hdg => Option.some.inj ((tokenTx n c hc hcg).symm.trans (tokenTx m d hd hdg)) }

theorem LocksHeld.placed {s : State} (h : LocksHeld s) {n : Nat} {c : Cur} (hc : s.curOf n = some c) : Placed c :=
  (locksHeld_iff.mp h).1 n c hc

/-- Outside W_ENQ an operation has no token. -/
theorem Placed.gotToken_eq_false {c : Cur} (h : Placed c) (hp : c.phase ≠ .wEnq) : c.gotToken = false :=
  Bool.eq_false_iff.mpr fun hg => hp (h.2 hg)

/-- The phase in which a blocking operation begins is one of its own. -/
theorem placed_of_firstWait {op : Instr} {ph : Phase} (h : firstWait op ph) (T : U32) (sub : Sub) :
    Placed ⟨op, ph, T, false, sub⟩ := by
  refine ⟨?_, by simp⟩
  rcases h with ⟨hop, rfl⟩ | ⟨⟨T', rfl⟩, rfl⟩ | ⟨hop, rfl⟩ | ⟨hop, rfl⟩
  · exact hop
  · rfl
  · simp [usesPhase, hop]
  · simp [usesPhase, hop]

section LockMoves

variable {s t : State} {old new : Option Cur}

theorem ActorGoes.placed (g : ActorGoes s t old new) (h : LocksHeld s) (hnew : ∀ c, new = some c → Placed c) :
    ∀ n c, t.curOf n = some c → Placed c := by
  intro n c hc
  by_cases hn : n = s.active
  · subst hn
    exact hnew c (g.after.symm.trans hc)
  · exact h.placed (g.others n hn ▸ hc)

/-- The acting task goes on with the lock it has, or without one. -/
theorem LocksHeld.of_same_lock (h : LocksHeld s) (g : ActorGoes s t old new) (hnew : ∀ c, new = some c → Placed c)
    (hsame : lockOf old = lockOf new) (hholder : ∀ j, t.holder j = s.holder j) : LocksHeld t := by
  refine locksHeld_iff.mpr ⟨g.placed h hnew, fun j n => ?_⟩
  rw [hholder j, (locksHeld_iff.mp h).2 j n]
  by_cases hn : n = s.active
  · rw [hn, g.before, g.after, hsame]
  · rw [g.others n hn]

/-- The acting task has no lock and takes one that is free. -/
theorem LocksHeld.of_take (h : LocksHeld s) (g : ActorGoes s t old new) (k : Lock)
    (hnew : ∀ c, new = some c → Placed c) (hfree : s.holder k = none) (hold : lockOf old = none)
    (htake : lockOf new = some k) (hholder : ∀ j, t.holder j = if j = k then some s.active else s.holder j) :
    LocksHeld t := by
  refine locksHeld_iff.mpr ⟨g.placed h hnew, fun j n => ?_⟩
  have hs := (locksHeld_iff.mp h).2 j n
  rw [hholder j]
  by_cases hn : n = s.active
  · subst hn
    rw [g.before, hold] at hs
    rw [g.after, htake]
    by_cases hj : j = k
    · simp [hj]
    · simpa [hj, Ne.symm hj] using hs
  · rw [g.others n hn, ← hs]
    by_cases hj : j = k
    · simp [hj, hfree, Ne.symm hn]
    · rw [if_neg hj]

/-- The acting task gives the lock it has back. -/
theorem LocksHeld.of_release (h : LocksHeld s) (g : ActorGoes s t old new) (k : Lock)
    (hnew : ∀ c, new = some c → Placed c) (hold : lockOf old = some k) (hgive : lockOf new = none)
    (hholder : ∀ j, t.holder j = if j = k then none else s.holder j) : LocksHeld t := by
  refine locksHeld_iff.mpr ⟨g.placed h hnew, fun j n => ?_⟩
  have hs := (locksHeld_iff.mp h).2 j n
  have hk : s.holder k = some s.active := ((locksHeld_iff.mp h).2 k s.active).mpr (g.before.symm ▸ hold)
  rw [hholder j]
  by_cases hn : n = s.active
  · subst hn
    rw [g.before, hold] at hs
    rw [g.after, hgive]
    by_cases hj : j = k
    · simp [hj]
    · simpa [hj, Ne.symm hj] using hs
  · rw [g.others n hn, ← hs]
    by_cases hj : j = k
    · simp [hj, hk, Ne.symm hn]
    · rw [if_neg hj]

/-- A change that touches neither locks nor tasks. -/
theorem LocksHeld.of_same_tasks (h : LocksHeld s) (htasks : t.tasks = s.tasks) (hholder : ∀ j, t.holder j = s.holder j) :
    LocksHeld t := by
  have hcur : ∀ n, t.curOf n = s.curOf n := fun n => by simp only [State.curOf, htasks]
  simpa only [locksHeld_iff, hcur, hholder] using h

end LockMoves

/-! ### The locks over every change -/

/-- A tick moves no operation to another phase. -/
theorem tickCur_keeps (c : Cur) :
    (tickCur c).op = c.op ∧ (tickCur c).phase = c.phase ∧ (tickCur c).gotToken = c.gotToken := by
  unfold tickCur
  split <;> exact ⟨rfl, rfl, rfl⟩

theorem placed_tickCur {c : Cur} (h : Placed c) : Placed (tickCur c) := by
  obtain ⟨hop, hphase, hgot⟩ := tickCur_keeps c
  simpa only [Placed, hop, hphase, hgot] using h

theorem lockOf_map_tickCur (cur : Option Cur) : lockOf (cur.map tickCur) = lockOf cur := by
  cases cur with
  | none => rfl
  | some c => exact congrArg Phase.lock (tickCur_keeps c).2.1

theorem curOf_tick (s : State) (n : Nat) :
    State.curOf { s with tasks := s.tasks.map tickTask } n = (s.curOf n).map tickCur := by
  simp only [State.curOf, List.getElem?_map]
  cases s.tasks[n]? <;> rfl

theorem LocksHeld.tick {s : State} (h : LocksHeld s) : LocksHeld { s with tasks := s.tasks.map tickTask } := by
  obtain ⟨hplaced, hlock⟩ := locksHeld_iff.mp h
  refine locksHeld_iff.mpr ⟨fun n c hc => ?_, fun k n => ?_⟩
  · rw [curOf_tick, Option.map_eq_some_iff] at hc
    obtain ⟨c', hc', rfl⟩ := hc
    exact placed_tickCur (hplaced n c' hc')
  · rw [curOf_tick, lockOf_map_tickCur]
    exact hlock k n

theorem curOf_resetBlock (s : State) (n : Nat) : s.resetBlock.curOf n = none := by
  simp only [State.curOf, State.resetBlock, List.getElem?_map]
  cases s.tasks[n]? <;> rfl

theorem locksHeld_resetBlock (s : State) : LocksHeld s.resetBlock :=
  locksHeld_iff.mpr ⟨fun n c hc => by simp [curOf_resetBlock] at hc,
    fun k n => by rw [curOf_resetBlock]; cases k <;> simp [State.resetBlock]⟩

/-- The acting task's operation completes, after an effect `s'` that gives the lock of its phase, if it had one, back. -/
theorem LocksHeld.completes {s : State} {old : Option Cur} (h : LocksHeld s) (s' : State) (hold : s.curOf s.active = old)
    (htasks : s'.tasks = s.tasks) (hactive : s'.active = s.active)
    (hholder : ∀ j, s'.holder j = if lockOf old = some j then none else s.holder j) {tk : Task} {st : Status}
    {r : ResultRecord} : LocksHeld (completed s' tk st r) := by
  have g := actorGoes_completed s' hold htasks hactive tk st r
  cases hk : lockOf old with
  | none => exact h.of_same_lock g (by simp) hk fun j => by simpa [hk] using hholder j
  | some k => exact h.of_release g k (by simp) hk rfl fun j => by simpa [hk, eq_comm] using hholder j

theorem LocksHeld.fails {s : State} {old : Option Cur} (h : LocksHeld s) (s' : State) (hold : s.curOf s.active = old)
    (htasks : s'.tasks = s.tasks) (hactive : s'.active = s.active)
    (hholder : ∀ j, s'.holder j = if lockOf old = some j then none else s.holder j) {tk : Task} {op : Instr}
    {st : Status} : LocksHeld (failed s' tk op st) := by
  rw [failed_eq_completed]
  exact h.completes { s' with draws := if isSendRequest op then s'.draws + 1 else s'.draws } hold htasks hactive
    fun j => by rw [← hholder j]; cases j <;> rfl

theorem Moved.locksHeld {o : Option Instr} {s t : State} (m : Moved o s t) (h : LocksHeld s) : LocksHeld t := by
  cases m with
  | stays => exact h
  | keepsByte | skipsFrame | receives | emitsByte | receivesMessage | dropsMessage | sendsMessage =>
    exact h.of_same_tasks rfl fun j => by cases j <;> rfl
  | ticks => exact h.tick
  | resets => exact locksHeld_resetBlock s
  | completesAtOnce tk st r hi =>
    exact h.completes s hi.curOf rfl rfl fun j => by simp
  | setsNodeId tk id hi =>
    exact h.completes { s with nodeId := id } hi.curOf rfl rfl fun j => by cases j <;> rfl
  | failsAtOnce tk op st hi =>
    exact h.fails s hi.curOf rfl rfl fun j => by simp
  | begins tk op ph T sub hi hw =>
    refine h.of_same_lock (actorGoes_proceeds s hi.1 hi.curOf rfl rfl _) ?_ ?_ fun j => by simp
    · rintro _ ⟨⟩
      exact placed_of_firstWait hw T sub
    · rcases hw with ⟨_, rfl⟩ | ⟨_, rfl⟩ | ⟨_, rfl⟩ | ⟨_, rfl⟩ <;> rfl
  | takesTxLock tk c f hr hop hp _ hfree =>
    have hgot := (h.placed hr.curOf).gotToken_eq_false (by simp [hp])
    refine h.of_take (actorGoes_proceeds { s with txLock := some s.active } hr.1 hr.curOf rfl rfl _) .tx ?_ hfree
      (by simp [hp]) (by simp only [lockOf_some]; split <;> rfl) fun j => by cases j <;> rfl
    rintro _ ⟨⟩
    refine ⟨?_, by simp [hgot]⟩
    dsimp only
    split <;> exact hop
  | takesToken tk c f hr hop hp =>
    refine h.of_same_lock (actorGoes_proceeds { s with ackPending := true, expSeq := f.seq, expId := f.identifier }
      hr.1 hr.curOf rfl rfl _) ?_ (by simp [hp]) fun j => by cases j <;> rfl
    rintro _ ⟨⟩
    exact ⟨hop, fun _ => rfl⟩
  | writes tk c f r hr _ hp =>
    exact h.completes (enqueued s c.op f) hr.curOf rfl rfl fun j => by
      cases j <;> simp [hp, enqueued]
  | writesThenReads tk c f T hr _ hread hp =>
    refine h.of_release (actorGoes_proceeds (enqueued s c.op f) hr.1 hr.curOf rfl rfl _) .tx ?_
      (by simp [hp]) rfl fun j => by cases j <;> rfl
    rintro _ ⟨⟩
    exact ⟨hread, by simp⟩
  | takesRxLock tk c hr _ hp hfree =>
    obtain ⟨hread, _⟩ := h.placed hr.curOf
    have hgot := (h.placed hr.curOf).gotToken_eq_false (by simp [hp])
    refine h.of_take (actorGoes_proceeds { s with rxLock := some s.active } hr.1 hr.curOf rfl rfl _) .rx ?_ hfree
      (by simp [hp]) rfl fun j => by cases j <;> rfl
    rintro _ ⟨⟩
    exact ⟨by simpa [hp, usesPhase] using hread, by simp [hgot]⟩
  | takesCanLock tk c ph hr hp hfree hop =>
    have hgot := (h.placed hr.curOf).gotToken_eq_false (by simp [hp])
    refine h.of_take (actorGoes_proceeds { s with canLock := some s.active } hr.1 hr.curOf rfl rfl _) .can ?_ hfree
      (by simp [hp]) ?_ fun j => by cases j <;> rfl
    · rintro _ ⟨⟩
      refine ⟨?_, by simp [hgot]⟩
      rcases hop with ⟨hop, rfl⟩ | ⟨hop, rfl⟩ <;> exact hop
    · rcases hop with ⟨_, rfl⟩ | ⟨_, rfl⟩ <;> rfl
  | reads tk c b rest f r hr _ hp =>
    exact h.completes (readDone s f rest) hr.curOf rfl rfl fun j => by
      cases j <;> simp [hp, readDone]
  | readFails tk c e hr _ hp =>
    exact h.fails (readDropped s) hr.curOf rfl rfl fun j => by
      cases j <;> simp [hp, readDropped]
  | queuesMessage tk c msg hr _ hp =>
    exact h.completes { s with canTxq := s.canTxq ++ [msg], canLock := none } hr.curOf rfl rfl fun j => by
      cases j <;> simp [hp]
  | takesMessage tk c msg rest hr _ hp =>
    exact h.completes { s with canRxq := rest, canLock := none } hr.curOf rfl rfl fun j => by
      cases j <;> simp [hp]
  | expiresAtLock tk c hr _ _ hp =>
    exact h.fails s hr.curOf rfl rfl fun j => by
      rcases hp with hp | hp <;> simp [hp]
  | expiresAtToken tk c hr _ _ hp =>
    exact h.fails { s with txLock := none } hr.curOf rfl rfl fun j => by
      cases j <;> simp [hp]
  | expiresAtEnqueue tk c hr _ _ hp =>
    exact h.fails { s with
      txLock := none, ackPending := if c.gotToken then false else s.ackPending } hr.curOf rfl rfl fun j => by
        cases j <;> simp [hp]
  | expiresAtRxLock tk c hr _ _ hp =>
    exact h.fails { s with ackPending := false } hr.curOf rfl rfl fun j => by
      cases j <;> simp [hp]
  | expiresReading tk c hr _ _ hp =>
    exact h.fails (readDropped s) hr.curOf rfl rfl fun j => by
      cases j <;> simp [hp, readDropped]
  | expiresAtQueue tk c hr _ _ hp =>
    exact h.fails { s with canLock := none } hr.curOf rfl rfl fun j => by
      rcases hp with hp | hp <;> cases j <;> simp [hp]

/-! ## What a change leaves of the parameters, the tasks and the queues -/

theorem Moved.cfg_eq {o : Option Instr} {s t : State} (m : Moved o s t) : t.cfg = s.cfg := by
  cases m with
  | failsAtOnce | readFails | expiresAtLock | expiresAtToken | expiresAtEnqueue | expiresAtRxLock | expiresReading
  | expiresAtQueue =>
    rw [failed_eq_completed]
    rfl
  | _ => rfl

/-- The task list after a change: at most the acting task's record is another, but for a tick and a reset. -/
inductive TasksMoved (n : Nat) (l : List Task) : List Task → Prop
  | same : TasksMoved n l l
  | goesOn (tk : Task) (cur : Option Cur) : l[n]? = some tk → TasksMoved n l (l.set n { tk with cur := cur })
  | completes (tk : Task) (r : Completion) : l[n]? = some tk →
      TasksMoved n l (l.set n { tk with tpc := tk.tpc + 1, cur := none, results := tk.results ++ [r] })
  | ticks : TasksMoved n l (l.map tickTask)
  | resets : TasksMoved n l (l.map fun tk => idleTask tk.prog)

theorem failed_tasks (s : State) (tk : Task) (op : Instr) (st : Status) :
    ∃ r, (failed s tk op st).tasks
      = s.tasks.set s.active { tk with tpc := tk.tpc + 1, cur := none, results := tk.results ++ [r] } := by
  rw [failed_eq_completed]
  exact ⟨_, rfl⟩

theorem Moved.tasks {o : Option Instr} {s t : State} (m : Moved o s t) : TasksMoved s.active s.tasks t.tasks := by
  cases m with
  | stays | keepsByte | skipsFrame | receives | emitsByte | receivesMessage | dropsMessage | sendsMessage => exact .same
  | begins tk _ _ _ _ h | takesTxLock tk _ _ h | takesToken tk _ _ h | writesThenReads tk _ _ _ h
  | takesRxLock tk _ h | takesCanLock tk _ _ h => exact .goesOn tk _ h.1
  | completesAtOnce tk _ _ h | setsNodeId tk _ h | writes tk _ _ _ h | reads tk _ _ _ _ _ h | queuesMessage tk _ _ h
  | takesMessage tk _ _ _ h => exact .completes tk _ h.1
  | failsAtOnce tk _ _ h | readFails tk _ _ h | expiresAtLock tk _ h | expiresAtToken tk _ h | expiresAtEnqueue tk _ h
  | expiresAtRxLock tk _ h | expiresReading tk _ h | expiresAtQueue tk _ h =>
    obtain ⟨r, hr⟩ := failed_tasks _ tk _ _
    exact hr ▸ .completes tk r h.1
  | ticks => exact .ticks
  | resets => exact .resets

/-- The number of tasks stays, and tpc goes on counting the results. -/
theorem TasksMoved.counted {n : Nat} {l l' : List Task} (m : TasksMoved n l l')
    (htpc : ∀ tk ∈ l, tk.tpc = tk.results.length) :
    l'.length = l.length ∧ ∀ tk ∈ l', tk.tpc = tk.results.length := by
  cases m with
  | same => exact ⟨rfl, htpc⟩
  | goesOn tk cur htk =>
    refine ⟨List.length_set, fun tk' hmem => ?_⟩
    rcases List.mem_or_eq_of_mem_set hmem with hmem | rfl
    · exact htpc tk' hmem
    · exact htpc tk (List.mem_of_getElem? htk)
  | completes tk r htk =>
    refine ⟨List.length_set, fun tk' hmem => ?_⟩
    rcases List.mem_or_eq_of_mem_set hmem with hmem | rfl
    · exact htpc tk' hmem
    · simpa using htpc tk (List.mem_of_getElem? htk)
  | ticks =>
    refine ⟨List.length_map _, fun tk' hmem => ?_⟩
    obtain ⟨tk, htk, rfl⟩ := List.mem_map.mp hmem
    exact htpc tk htk
  | resets =>
    refine ⟨List.length_map _, fun tk' hmem => ?_⟩
    obtain ⟨tk, _, rfl⟩ := List.mem_map.mp hmem
    rfl

theorem Moved.tasksCounted {o : Option Instr} {s t : State} (m : Moved o s t) (h : TasksCounted s) : TasksCounted t := by
  obtain ⟨hlen, htpc⟩ := m.tasks.counted h.tpc
  exact ⟨by rw [hlen, m.cfg_eq, h.nTasks], htpc⟩

/-! ## The queues and the decoder (R38 (e) and (f), R152) -/

/-- What the decoder may hold between two bytes: less than a header, or a header that announces a legal payload and
less than the whole frame (R152). -/
def PartOfFrame (c : Config) (buf : List Byte) : Prop :=
  buf.length < c.hdrLen ∨ (lengthField c buf ≤ c.maxPayload ∧ buf.length < c.hdrLen + lengthField c buf)

theorem PartOfFrame.length_le {c : Config} {buf : List Byte} (h : PartOfFrame c buf) : buf.length ≤ c.maxFrame := by
  unfold Config.maxFrame
  rcases h with h | ⟨hl, h⟩ <;> omega

/-- Bytes behind the header do not change the length field (R82). -/
theorem lengthField_append {c : Config} {buf : List Byte} (h : 8 ≤ buf.length) (bs : List Byte) :
    lengthField c (buf ++ bs) = lengthField c buf := by
  unfold lengthField
  rw [List.getD_append _ _ _ _ (by omega), List.getD_append _ _ _ _ (by omega)]

/-- A byte that the decoder keeps is put behind the others; the frame is not at its end with it (R145). -/
theorem dstep_more {c : Config} {buf buf' : List Byte} {b : Byte} (h : dstep c buf b = .more buf') :
    buf' = buf ++ [b] ∧
      (buf = [] ∨ buf'.length < c.hdrLen ∨
        (¬ (buf'.length = c.hdrLen ∧ c.maxPayload < lengthField c buf') ∧
          buf'.length < c.hdrLen + lengthField c buf')) := by
  unfold dstep at h
  split at h
  · rename_i hz
    have hnil := List.length_eq_zero_iff.mp hz
    split at h <;> cases h
    exact ⟨by simp [hnil], .inl hnil⟩
  · simp only at h
    split at h
    case isTrue hshort =>
      cases h
      exact ⟨rfl, .inr (.inl (by simpa using hshort))⟩
    case isFalse =>
      split at h
      case isTrue => cases h
      case isFalse hfits =>
        split at h
        case isTrue hless =>
          cases h
          exact ⟨rfl, .inr (.inr ⟨by simpa using hfits, by simpa using hless⟩)⟩
        case isFalse => split at h <;> cases h

/-- A byte that the decoder keeps leaves a proper part of a legal frame (R152). -/
theorem PartOfFrame.more {c : Config} (hc : c.legal = true) {buf buf' : List Byte} {b : Byte} (h : PartOfFrame c buf)
    (hd : dstep c buf b = .more buf') : PartOfFrame c buf' := by
  obtain ⟨hhdr, _⟩ := legal_bounds hc
  obtain ⟨rfl, hnil | hshort | ⟨hfits, hless⟩⟩ := dstep_more hd
  · exact .inl (by simp [hnil, hhdr])
  · exact .inl hshort
  · rw [List.length_append, List.length_singleton] at hfits hless
    by_cases hfull : c.hdrLen ≤ buf.length
    · have hl : lengthField c (buf ++ [b]) = lengthField c buf := lengthField_append (by omega) [b]
      rcases h with h | ⟨hle, _⟩
      · omega
      · exact .inr ⟨by omega, by simpa using hless⟩
    · by_cases hend : buf.length + 1 = c.hdrLen
      · exact .inr ⟨by omega, by simpa using hless⟩
      · exact .inl (by rw [List.length_append, List.length_singleton]; omega)

/-- An empty decoder meets every clause about it. -/
theorem queuesBounded_of_empty_rxBuf {s : State} (hc : s.cfg.legal = true) (hbuf : s.rxBuf = [])
    (hfifo : s.rxFifo.length ≤ s.cfg.rxFifoDepth) (htxq : s.txq.length ≤ s.cfg.txqCap)
    (hrxq : s.canRxq.length ≤ s.cfg.canRxqDepth) (hctxq : s.canTxq.length ≤ s.cfg.canTxqDepth) : QueuesBounded s := by
  obtain ⟨hhdr, _⟩ := legal_bounds hc
  exact ⟨hfifo, htxq, hrxq, hctxq, by simp [hbuf], .inl (by simp [hbuf, hhdr]), fun _ => hbuf⟩

/-- A queue that loses its head keeps to its capacity. -/
theorem length_le_of_eq_cons {α : Type} {l rest : List α} {a : α} {n : Nat} (h : l = a :: rest) (hl : l.length ≤ n) :
    rest.length ≤ n := by
  rw [h, List.length_cons] at hl
  omega

/-- A queue below its capacity has room for one more. -/
theorem length_snoc_le {α : Type} {l : List α} {n : Nat} (h : l.length < n) (a : α) : (l ++ [a]).length ≤ n := by
  rw [List.length_append]
  exact h

/-- TXQ has room for the frame that w_enq pushes (R174). -/
theorem enqueued_txq_length {s : State} (hc : s.cfg.legal = true) (op : Instr) (f : TxFrame)
    (hroom : s.cfg.hdrLen + f.data.length ≤ s.cfg.txqCap - s.txq.length) :
    (enqueued s op f).txq.length ≤ s.cfg.txqCap := by
  obtain ⟨hhdr, _⟩ := legal_bounds hc
  rw [enqueued, List.length_append, wireFrame_length]
  omega

theorem Moved.queuesBounded {o : Option Instr} {s t : State} (m : Moved o s t) (hc : s.cfg.legal = true)
    (hl : LocksHeld s) (h : QueuesBounded s) : QueuesBounded t := by
  cases m with
  | stays | completesAtOnce | setsNodeId | begins | takesTxLock | takesToken | takesCanLock | dropsMessage | ticks =>
    exact { h with }
  | failsAtOnce | expiresAtLock | expiresAtToken | expiresAtEnqueue | expiresAtRxLock | expiresAtQueue =>
    rw [failed_eq_completed]
    exact { h with }
  | writes tk c f r hr _ _ _ hroom => exact { h with txq := enqueued_txq_length hc c.op f hroom }
  | writesThenReads tk c f T hr _ _ _ _ hroom => exact { h with txq := enqueued_txq_length hc c.op f hroom }
  | takesRxLock => exact { h with rxFree := nofun }
  | keepsByte tk c b rest buf hr _ hp hq hd =>
    have hpart : PartOfFrame s.cfg buf := PartOfFrame.more hc h.partialFrame hd
    have hlock : s.rxLock = some s.active := hl.rxOwner _ _ hr.curOf hp
    exact { h with
      rxFifo := length_le_of_eq_cons hq h.rxFifo
      rxCount := hpart.length_le
      partialFrame := hpart
      rxFree := fun hfree => by rw [hlock] at hfree; cases hfree }
  | skipsFrame tk c b rest _ _ _ hq | reads tk c b rest _ _ _ _ _ hq =>
    exact queuesBounded_of_empty_rxBuf hc rfl (length_le_of_eq_cons hq h.rxFifo) h.txq h.canRxq h.canTxq
  | readFails | expiresReading =>
    rw [failed_eq_completed]
    exact queuesBounded_of_empty_rxBuf hc rfl (Nat.zero_le _) h.txq h.canRxq h.canTxq
  | queuesMessage _ _ _ _ _ _ hroom => exact { h with canTxq := length_snoc_le hroom _ }
  | takesMessage _ _ _ _ _ _ _ hq => exact { h with canRxq := length_le_of_eq_cons hq h.canRxq }
  | receives fifo err turns hfifo =>
    refine { h with rxFifo := ?_ }
    rcases hfifo with rfl | ⟨b, rfl, hroom⟩
    · exact h.rxFifo
    · exact length_snoc_le hroom b
  | emitsByte x rest hq => exact { h with txq := length_le_of_eq_cons hq h.txq }
  | receivesMessage _ hroom => exact { h with canRxq := length_snoc_le hroom _ }
  | sendsMessage _ _ hq => exact { h with canTxq := length_le_of_eq_cons hq h.canTxq }
  | resets =>
    exact queuesBounded_of_empty_rxBuf hc rfl (Nat.zero_le _) (Nat.zero_le _) (Nat.zero_le _) (Nat.zero_le _)

/-! ## Every step -/

theorem Moved.blockInv {o : Option Instr} {s t : State} (m : Moved o s t) (h : BlockInv s) : BlockInv t where
  legal := by rw [m.cfg_eq, h.legal]
  locks := m.locksHeld h.locks
  queues := m.queuesBounded h.legal h.locks h.queues
  tasks := m.tasksCounted h.tasks

/-- The schedule and the acting task's name are no part of the invariant. -/
theorem BlockInv.with_turn {s : State} (h : BlockInv s) (a : Nat) (ts : List Turn) :
    BlockInv { s with active := a, turns := ts } :=
  { legal := h.legal, locks := { h.locks with }, queues := { h.queues with }, tasks := { h.tasks with } }

/-- Settles O51: a step makes one of the changes of `Moved`, and each of them keeps every part of the invariant. -/
theorem stepKeepsBlockInvariant : Obligations.StepKeepsBlockInvariant := by
  intro s t h hstep
  obtain ⟨a, ts, o, m, _⟩ := step_moved hstep
  exact m.blockInv (h.with_turn a ts)

/-! ## Who writes NODE_ID and TX_SEQ (R20, R21, R212) -/

/-- NODE_ID is written by SET_NODE_ID and by reset alone. -/
theorem Moved.nodeId_cases {o : Option Instr} {s t : State} (m : Moved o s t) :
    t.nodeId = s.nodeId ∨ (∃ id, o = some (.setNodeId id) ∧ t.nodeId = id) ∨ o = some .reset := by
  cases m with
  | setsNodeId tk id _ ho => exact .inr (.inl ⟨id, ho, rfl⟩)
  | resets ho => exact .inr (.inr ho)
  | failsAtOnce | readFails | expiresAtLock | expiresAtToken | expiresAtEnqueue | expiresAtRxLock | expiresReading
  | expiresAtQueue =>
    rw [failed_eq_completed]
    exact .inl rfl
  | _ => exact .inl rfl

/-- The change is w_enq of the acting task's frame f (R174). -/
structure Enqueues (s t : State) (c : Cur) (f : TxFrame) : Prop where
  actor : s.curOf t.active = some c
  frame : writtenFrame s c.op = some f
  txq : t.txq = s.txq ++ wireFrame s.cfg f.command f.identifier f.flags f.seq f.data
  txSeq : t.txSeq = if isSendRequest c.op then s.txSeq + 1 else s.txSeq

/-- TX_SEQ is written by an enqueue and by reset alone. -/
theorem Moved.txSeq_cases {o : Option Instr} {s t : State} (m : Moved o s t) :
    t.txSeq = s.txSeq ∨ (∃ c f, Enqueues s t c f) ∨ o = some .reset := by
  cases m with
  | writes tk c f r hr _ _ hf => exact .inr (.inl ⟨c, f, hr.curOf, hf, rfl, rfl⟩)
  | writesThenReads tk c f T hr _ _ _ hf => exact .inr (.inl ⟨c, f, hr.curOf, hf, rfl, rfl⟩)
  | resets ho => exact .inr (.inr ho)
  | failsAtOnce | readFails | expiresAtLock | expiresAtToken | expiresAtEnqueue | expiresAtRxLock | expiresReading
  | expiresAtQueue =>
    rw [failed_eq_completed]
    exact .inl rfl
  | _ => exact .inl rfl

/-- The frame to be written is no matter of the schedule. -/
theorem writtenFrame_with_turn (s : State) (a : Nat) (ts : List Turn) (op : Instr) :
    writtenFrame { s with active := a, turns := ts } op = writtenFrame s op := by cases op <;> rfl

/-- Settles O60, by the changes of `Moved` that write the two registers. -/
theorem nodeIdAndTxSeqWriters : Obligations.NodeIdAndTxSeqWriters := by
  intro s t hstep hreset
  obtain ⟨a, ts, o, m, hfetch⟩ := step_moved hstep
  have hno : o ≠ some .reset := fun ho => hreset ⟨_, hfetch _ ho⟩
  constructor
  · rcases m.nodeId_cases with h | ⟨id, ho, h⟩ | ho
    · exact .inl h
    · exact .inr ⟨id, _, hfetch _ ho, h⟩
    · exact absurd ho hno
  · rcases m.txSeq_cases with h | ⟨c, f, e⟩ | ho
    · exact .inl h
    · have hf : writtenFrame s c.op = some f := by rw [← writtenFrame_with_turn s a ts, e.frame]
      cases hsr : isSendRequest c.op with
      | false => exact .inl (by simpa [hsr] using e.txSeq)
      | true =>
        have hseq : f.seq = s.txSeq := writtenFrame_seq hf hsr
        exact .inr ⟨by simpa [hsr] using e.txSeq, c, f, e.actor, hsr, hf, hseq ▸ e.txq⟩
    · exact absurd ho hno

end Sys2Proof.Machine

namespace Sys2Proof.Machine

/-! PROOFS. O19, O53, O56, O58 and O59. The checksum and the frame bytes go through their closed forms; the rules of the
memory go through the changes of `Moved`, one lemma for each group of items that says which changes write it. -/

/-! ## The byte order of a frame (R61, R63) -/

/-- The closed form of R121 names no byte order. -/
theorem closedCsum_with_wireOrder (c : Config) (o : WireOrder) (command : Byte) (identifier flags length : U16)
    (seq : Byte) (data : List Byte) :
    closedCsum { c with wireOrder := o } command identifier flags length seq data
      = closedCsum c command identifier flags length seq data := rfl

/-- The checksum under a given byte order is the closed form, which knows none. -/
theorem csum_with_wireOrder (c : Config) (o : WireOrder) (command : Byte) (identifier flags length : U16) (seq : Byte)
    (data : List Byte) :
    csum { c with wireOrder := o } command identifier flags length seq data
      = closedCsum c command identifier flags length seq data := by
  rw [csum_eq_closedCsum, closedCsum_with_wireOrder]

/-- The bytes emitted under a given byte order are the table of R80, with a checksum that is the same under both. -/
theorem frameBytes_with_wireOrder (c : Config) (o : WireOrder) (command : Byte) (identifier flags : U16) (seq : Byte)
    (data : List Byte) :
    frameBytes { c with wireOrder := o } command identifier flags seq data
      = frameWith { c with wireOrder := o } command identifier flags (BitVec.ofNat 16 data.length) seq
          (closedCsum c command identifier flags (BitVec.ofNat 16 data.length) seq data) data := by
  rw [frameBytes_eq_wireFrame, wireFrame, closedCsum_with_wireOrder]

/-- Settles O19: the checksum has a closed form without a byte order, and the table of R80 has the two bytes of each u16
field swapped between its two layouts. -/
theorem wireOrderMovesOnlyFieldBytes : Obligations.WireOrderMovesOnlyFieldBytes := by
  intro c command identifier flags seq data
  refine ⟨fun length => ?_, ?_⟩
  · rw [csum_with_wireOrder, csum_with_wireOrder]
  · simp only [frameBytes_with_wireOrder, frameWith]
    exact ⟨_, _, _, _, _, _, _, rfl, rfl⟩

/-! ## Parameters and programs (R62, R77) -/

/-- Writing an element back with the same image changes no image. -/
theorem map_set_of_image_eq {α β : Type} {l : List α} {n : Nat} {a b : α} {f : α → β} (ha : l[n]? = some a)
    (hb : f b = f a) : (l.set n b).map f = l.map f := by
  obtain ⟨hlt, rfl⟩ := List.getElem?_eq_some_iff.mp ha
  rw [List.map_set, hb, ← List.getElem_map f (h := by simpa using hlt), List.set_getElem_self]

/-- No change of the task list writes a program. -/
theorem TasksMoved.progs {n : Nat} {l l' : List Task} (m : TasksMoved n l l') :
    l'.map Task.prog = l.map Task.prog := by
  cases m with
  | same => rfl
  | goesOn tk cur htk => exact map_set_of_image_eq htk rfl
  | completes tk r htk => exact map_set_of_image_eq htk rfl
  | ticks => rw [List.map_map]; rfl
  | resets => rw [List.map_map]; rfl

/-- Settles O53: `cfg_eq` and the task lists of `TasksMoved`. -/
theorem stepKeepsParametersAndPrograms : Obligations.StepKeepsParametersAndPrograms := by
  intro s t hstep
  obtain ⟨a, ts, o, m, _⟩ := step_moved hstep
  exact ⟨m.cfg_eq, m.tasks.progs⟩

/-! ## The ack token (R72, R76) -/

/-- EXP_SEQ and EXP_ID are written by w_token, which waits for a free token, and by reset alone. -/
theorem Moved.expected_cases {o : Option Instr} {s t : State} (m : Moved o s t) :
    (t.expSeq = s.expSeq ∧ t.expId = s.expId) ∨ s.ackPending = false ∨ o = some .reset := by
  cases m with
  | takesToken _ _ _ _ _ _ _ hfree => exact .inr (.inl hfree)
  | resets ho => exact .inr (.inr ho)
  | _ => exact .inl (by simp [failed_eq_completed, completed, proceeds, enqueued, readDone, readDropped])

/-- Every operation with got_token in t had it in s. -/
def NoNewToken (s t : State) : Prop :=
  ∀ n c', t.curOf n = some c' → c'.gotToken = true → ∃ c, s.curOf n = some c ∧ c.gotToken = true

theorem noNewToken_of_same_tasks {s t : State} (htasks : t.tasks = s.tasks) : NoNewToken s t :=
  fun n c' hc hgot => ⟨c', by simpa only [State.curOf, htasks] using hc, hgot⟩

/-- Only the acting task's operation can be another, so it decides. -/
theorem ActorGoes.noNewToken {s t : State} {old new : Option Cur} (g : ActorGoes s t old new)
    (h : ∀ c', new = some c' → c'.gotToken = true → ∃ c, old = some c ∧ c.gotToken = true) : NoNewToken s t := by
  intro n c' hc hgot
  by_cases hn : n = s.active
  · subst hn
    rw [g.before]
    exact h c' (g.after.symm.trans hc) hgot
  · exact ⟨c', g.others n hn ▸ hc, hgot⟩

/-- A completed operation is gone, its got_token with it. -/
theorem noNewToken_completed {s : State} (s' : State) (htasks : s'.tasks = s.tasks) (hactive : s'.active = s.active)
    (tk : Task) (st : Status) (r : ResultRecord) : NoNewToken s (completed s' tk st r) :=
  (actorGoes_completed s' rfl htasks hactive tk st r).noNewToken fun _ hnone => absurd hnone (by simp)

theorem noNewToken_failed {s : State} (s' : State) (htasks : s'.tasks = s.tasks) (hactive : s'.active = s.active)
    (tk : Task) (op : Instr) (st : Status) : NoNewToken s (failed s' tk op st) := by
  rw [failed_eq_completed]
  exact noNewToken_completed _ htasks hactive tk st _

/-- The operation goes on with the got_token it has, or without. -/
theorem noNewToken_proceeds {s : State} (s' : State) {tk : Task} {c c' : Cur} (h : Running s tk c)
    (htasks : s'.tasks = s.tasks) (hactive : s'.active = s.active) (hgot : c'.gotToken = true → c.gotToken = true) :
    NoNewToken s (proceeds s' tk c') :=
  (actorGoes_proceeds s' h.1 h.curOf htasks hactive c').noNewToken fun _ hc hg => by
    cases hc
    exact ⟨c, rfl, hgot hg⟩

theorem noNewToken_tick (s : State) : NoNewToken s { s with tasks := s.tasks.map tickTask } := by
  intro n c' hc hgot
  rw [curOf_tick, Option.map_eq_some_iff] at hc
  obtain ⟨c, hc, rfl⟩ := hc
  obtain ⟨_, _, hkeep⟩ := tickCur_keeps c
  exact ⟨c, hc, hkeep ▸ hgot⟩

theorem noNewToken_resetBlock (s : State) : NoNewToken s s.resetBlock :=
  fun n c' hc => by simp [curOf_resetBlock] at hc

/-- got_token is newly set by w_token alone, which takes a free token. -/
theorem Moved.gotToken_cases {o : Option Instr} {s t : State} (m : Moved o s t) :
    NoNewToken s t ∨ (s.ackPending = false ∧ t.ackPending = true) := by
  cases m with
  | takesToken _ _ _ _ _ _ _ hfree => exact .inr ⟨hfree, rfl⟩
  | stays | keepsByte | skipsFrame | receives | emitsByte | receivesMessage | dropsMessage | sendsMessage =>
    exact .inl (noNewToken_of_same_tasks rfl)
  | completesAtOnce | setsNodeId | writes | reads | queuesMessage | takesMessage =>
    exact .inl (noNewToken_completed _ rfl rfl _ _ _)
  | failsAtOnce | readFails | expiresAtLock | expiresAtToken | expiresAtEnqueue | expiresAtRxLock | expiresReading
  | expiresAtQueue => exact .inl (noNewToken_failed _ rfl rfl _ _ _)
  | begins tk op ph T sub h =>
    exact .inl ((actorGoes_proceeds s h.1 h.curOf rfl rfl _).noNewToken fun _ hc hg => by cases hc; cases hg)
  | writesThenReads tk c f T h => exact .inl (noNewToken_proceeds _ h rfl rfl nofun)
  | takesTxLock tk c _ h | takesRxLock tk c h | takesCanLock tk c _ h =>
    exact .inl (noNewToken_proceeds _ h rfl rfl id)
  | ticks => exact .inl (noNewToken_tick s)
  | resets => exact .inl (noNewToken_resetBlock s)

/-- Settles O56: w_token is the one change that takes the token, and it finds it free. -/
theorem tokenTakenOnlyWhenFree : Obligations.TokenTakenOnlyWhenFree := by
  intro s t hstep hreset
  obtain ⟨a, ts, o, m, hfetch⟩ := step_moved hstep
  constructor
  · intro hout
    rcases m.expected_cases with h | hfree | ho
    · exact h
    · exact absurd (hout.symm.trans hfree) (by decide)
    · exact absurd ⟨_, hfetch _ ho⟩ hreset
  · intro n c' hc hgot
    exact m.gotToken_cases.imp (fun h => h n c' hc hgot) id

/-! ## The serial streams (R67, R69, R150) -/

/-- WIRE_OUT followed by TXQ is lengthened by w_enq alone, by its frame; wire_tx_byte moves a byte within the two,
and reset empties TXQ. -/
theorem Moved.wireStream_cases {o : Option Instr} {s t : State} (m : Moved o s t) :
    t.wireOut ++ t.txq = s.wireOut ++ s.txq ∨
      (∃ f : TxFrame, t.wireOut ++ t.txq
        = s.wireOut ++ s.txq ++ wireFrame s.cfg f.command f.identifier f.flags f.seq f.data) ∨
      (o = some .reset ∧ t.wireOut = s.wireOut ∧ t.txq = []) := by
  cases m with
  | writes _ _ f | writesThenReads _ _ f => exact .inr (.inl ⟨f, (List.append_assoc ..).symm⟩)
  | emitsByte x rest hq => exact .inl (by simp [hq])
  | resets ho => exact .inr (.inr ⟨ho, rfl, rfl⟩)
  | _ => exact .inl (by simp [failed_eq_completed, completed, proceeds, readDone, readDropped])

/-- RX_FIFO gets a byte from the wire, loses its head to a reader, or is emptied by a failing read or a reset. -/
theorem Moved.rxFifo_cases {o : Option Instr} {s t : State} (m : Moved o s t) :
    t.rxFifo = s.rxFifo ∨ (∃ b, t.rxFifo = s.rxFifo ++ [b]) ∨ (∃ b, s.rxFifo = b :: t.rxFifo) ∨ t.rxFifo = [] := by
  cases m with
  | receives fifo err turns hfifo =>
    rcases hfifo with rfl | ⟨b, rfl, _⟩
    · exact .inl rfl
    · exact .inr (.inl ⟨b, rfl⟩)
  | keepsByte _ _ b _ _ _ _ _ hq | skipsFrame _ _ b _ _ _ _ hq | reads _ _ b _ _ _ _ _ _ hq =>
    exact .inr (.inr (.inl ⟨b, hq⟩))
  | readFails | expiresReading => exact .inr (.inr (.inr (by simp [failed_eq_completed, completed, readDropped])))
  | resets => exact .inr (.inr (.inr rfl))
  | _ => exact .inl (by simp [failed_eq_completed, completed, proceeds, enqueued])

/-- Settles O58, by the changes of `Moved` that write the serial queues. -/
theorem wireStreamGrowsByWholeFrames : Obligations.WireStreamGrowsByWholeFrames := by
  intro s t hstep
  obtain ⟨a, ts, o, m, hfetch⟩ := step_moved hstep
  refine ⟨?_, m.rxFifo_cases⟩
  rcases m.wireStream_cases with h | h | ⟨ho, hout, htxq⟩
  · exact .inr (.inl h)
  · exact .inr (.inr h)
  · exact .inl ⟨⟨_, hfetch _ ho⟩, hout, htxq⟩

/-! ## The CAN queues (R71, R268) -/

/-- CAN_OUT followed by CAN_TXQ is lengthened by c_enq alone, by one message; can_tx_done moves a message within it. -/
theorem Moved.canStream_cases {o : Option Instr} {s t : State} (m : Moved o s t) :
    (∃ new, t.canOut ++ t.canTxq = s.canOut ++ s.canTxq ++ new ∧ new.length ≤ 1) ∨ o = some .reset := by
  cases m with
  | queuesMessage _ _ msg => exact .inl ⟨[msg], (List.append_assoc ..).symm, Nat.le_refl 1⟩
  | sendsMessage msg rest hq => exact .inl ⟨[], by simp [hq], Nat.zero_le 1⟩
  | resets ho => exact .inr ho
  | _ =>
    exact .inl ⟨[], by simp [failed_eq_completed, completed, proceeds, enqueued, readDone, readDropped], Nat.zero_le 1⟩

/-- The acting task completes with OK and message m as its record. -/
def CompletesWithMessage (s t : State) (m : CanMsg) : Prop :=
  ∃ tk tk', s.tasks[t.active]? = some tk ∧ t.tasks[t.active]? = some tk' ∧
    tk'.results = tk.results ++ [⟨.ok, .canMsg m⟩]

/-- What `completed` says, once there is an acting task. -/
theorem completesWithMessage_completed {s : State} (s' : State) {tk : Task} (htk : s.tasks[s.active]? = some tk)
    (htasks : s'.tasks = s.tasks) (hactive : s'.active = s.active) (m : CanMsg) :
    CompletesWithMessage s (completed s' tk .ok (.canMsg m)) m := by
  obtain ⟨hlt, _⟩ := List.getElem?_eq_some_iff.mp htk
  exact ⟨tk, _, by simpa [completed, hactive] using htk,
    by simp only [completed, htasks, hactive]; exact List.getElem?_set_self hlt, rfl⟩

/-- CAN_RXQ gets a message from the bus, or loses its head to a CAN_READ. -/
theorem Moved.canRxq_cases {o : Option Instr} {s t : State} (m : Moved o s t) :
    t.canRxq = s.canRxq ∨ (∃ msg, t.canRxq = s.canRxq ++ [msg]) ∨
      (∃ msg, s.canRxq = msg :: t.canRxq ∧ CompletesWithMessage s t msg) ∨ o = some .reset := by
  cases m with
  | receivesMessage msg => exact .inr (.inl ⟨msg, rfl⟩)
  | takesMessage tk c msg rest h _ _ hq =>
    exact .inr (.inr (.inl ⟨msg, hq, completesWithMessage_completed _ h.1 rfl rfl msg⟩))
  | resets ho => exact .inr (.inr (.inr ho))
  | _ => exact .inl (by simp [failed_eq_completed, completed, proceeds, enqueued, readDone, readDropped])

/-- Settles O59, by the changes of `Moved` that write the CAN queues. -/
theorem canQueuesKeepArrivalOrder : Obligations.CanQueuesKeepArrivalOrder := by
  intro s t hstep hreset
  obtain ⟨a, ts, o, m, hfetch⟩ := step_moved hstep
  have hno : o ≠ some .reset := fun ho => hreset ⟨_, hfetch _ ho⟩
  refine ⟨m.canStream_cases.resolve_right hno, ?_⟩
  rcases m.canRxq_cases with h | h | ⟨msg, hq, tk, tk', htk, htk', hres⟩ | ho
  · exact .inl h
  · exact .inr (.inl h)
  · exact .inr (.inr ⟨msg, tk, tk', hq, htk, htk', hres⟩)
  · exact absurd ho hno

end Sys2Proof.Machine

namespace Sys2Proof

open Machine

/-! PROOFS. O1, O2 and O3: the reader of every operation, event and frame takes back what the encoder writes, and takes
nothing else. The single values are those of Laws/Decode.lean; here are the records and the rows of the tables. -/

/-! ## The records among the arguments, read back (log 5) -/

theorem readFrame_putFrame (f : Frame) (r : List Byte) : readFrame (putFrame f ++ r) = .ok (f, r) := by
  simp only [readFrame, putFrame, List.append_assoc, List.cons_append, List.nil_append, readU8_cons, readU16_putU16,
    readBytes_putBytes, ok_bind]

theorem readCanFields_putCanFields (f : CanFields) (r : List Byte) :
    readCanFields (putCanFields f ++ r) = .ok (f, r) := by
  cases f <;>
    simp [readCanFields, putCanFields, readBool_putBool, readU8_cons, readU16_putU16, readU32_putU32,
      readBytes_putBytes]

theorem readEventOperand_putEventOperand (o : EventOperand) (r : List Byte) :
    readEventOperand (putEventOperand o ++ r) = .ok (o, r) := by
  cases o <;> simp [readEventOperand, putEventOperand, readBool_putBool, readU32_putU32, readBytes_putBytes]

theorem readRun_append {n : Nat} {d : List Byte} (h : d.length = n) (r : List Byte) :
    readRun n (d ++ r) = .ok (d, r) := by
  simp [readRun, ← h]

/-! ## What the readers of the records take (log 5) -/

/-- Peels one argument off a reader that succeeds: `hread` says what the argument's reader takes. -/
theorem bind_ok_of_takes {α β : Type} {read : List Byte → Except DecodeError (Rest α)}
    {spell : α → List Byte → List Byte} (hread : ∀ {d r v}, read d = .ok (v, r) → spell v r = d) {d : List Byte}
    {f : Rest α → Except DecodeError β} {b : β} (h : (read d >>= f) = .ok b) :
    ∃ v r, spell v r = d ∧ f (v, r) = .ok b := by
  obtain ⟨⟨v, r⟩, hv, hf⟩ := bind_ok h
  exact ⟨v, r, hread hv, hf⟩

theorem of_readFrameArgs {d r : List Byte} {v : Byte × U16 × U16 × Byte × List Byte}
    (h : readFrameArgs d = .ok (v, r)) :
    putFrameArgs v.1 v.2.1 v.2.2.1 v.2.2.2.1 v.2.2.2.2 ++ r = d := by
  obtain ⟨command, _, h1, h⟩ := bind_ok_of_takes of_readU8 h
  obtain ⟨identifier, _, h2, h⟩ := bind_ok_of_takes of_readU16 h
  obtain ⟨flags, _, h3, h⟩ := bind_ok_of_takes of_readU16 h
  obtain ⟨seq, _, h4, h⟩ := bind_ok_of_takes of_readU8 h
  obtain ⟨data, _, h5, h⟩ := bind_ok_of_takes of_readBytes h
  cases h
  simp [putFrameArgs, h1, h2, h3, h4, h5]

theorem of_readCanMsg {d r : List Byte} {m : CanMsg} (h : readCanMsg d = .ok (m, r)) : putCanMsg m ++ r = d := by
  obtain ⟨id, _, h1, h⟩ := bind_ok_of_takes of_readU32 h
  obtain ⟨len, _, h2, h⟩ := bind_ok_of_takes of_readLen h
  obtain ⟨data, _, h3, h⟩ := bind_ok_of_takes of_readBytes8 h
  cases h
  simp [putCanMsg, h1, h2, h3]

theorem of_readFrame {d r : List Byte} {f : Frame} (h : readFrame d = .ok (f, r)) : putFrame f ++ r = d := by
  obtain ⟨command, _, h1, h⟩ := bind_ok_of_takes of_readU8 h
  obtain ⟨identifier, _, h2, h⟩ := bind_ok_of_takes of_readU16 h
  obtain ⟨flags, _, h3, h⟩ := bind_ok_of_takes of_readU16 h
  obtain ⟨length, _, h4, h⟩ := bind_ok_of_takes of_readU16 h
  obtain ⟨seq, _, h5, h⟩ := bind_ok_of_takes of_readU8 h
  obtain ⟨checksum, _, h6, h⟩ := bind_ok_of_takes of_readU8 h
  obtain ⟨data, _, h7, h⟩ := bind_ok_of_takes of_readBytes h
  cases h
  simp [putFrame, h1, h2, h3, h4, h5, h6, h7]

theorem of_readCanFields {d r : List Byte} {f : CanFields} (h : readCanFields d = .ok (f, r)) :
    putCanFields f ++ r = d := by
  obtain ⟨legacy, _, h1, h⟩ := bind_ok_of_takes of_readBool h
  cases legacy with
  | true =>
    simp only [if_true] at h
    obtain ⟨command, _, h2, h⟩ := bind_ok_of_takes of_readU8 h
    obtain ⟨event, _, h3, h⟩ := bind_ok_of_takes of_readU8 h
    obtain ⟨reserved, _, h4, h⟩ := bind_ok_of_takes of_readU16 h
    obtain ⟨data, _, h5, h⟩ := bind_ok_of_takes of_readU32 h
    cases h
    simp [putCanFields, h1, h2, h3, h4, h5]
  | false =>
    simp only [Bool.false_eq_true, if_false] at h
    obtain ⟨cmd, _, h2, h⟩ := bind_ok_of_takes of_readU8 h
    obtain ⟨args, _, h3, h⟩ := bind_ok_of_takes of_readBytes h
    cases h
    simp [putCanFields, h1, h2, h3]

theorem of_readEventOperand {d r : List Byte} {o : EventOperand} (h : readEventOperand d = .ok (o, r)) :
    putEventOperand o ++ r = d := by
  obtain ⟨word, _, h1, h⟩ := bind_ok_of_takes of_readBool h
  cases word with
  | true =>
    simp only [if_true] at h
    obtain ⟨data, _, h2, h⟩ := bind_ok_of_takes of_readU32 h
    cases h
    simp [putEventOperand, h1, h2]
  | false =>
    simp only [Bool.false_eq_true, if_false] at h
    obtain ⟨args, _, h2, h⟩ := bind_ok_of_takes of_readBytes h
    cases h
    simp [putEventOperand, h1, h2]

/-! ## What the reader of each operation and event takes (R110, R113) -/

/-- The bytes d are those of the well-formed instruction i, with r behind them. -/
def Spells (d : List Byte) (i : Instr) (r : List Byte) : Prop := i.wf = true ∧ encode i ++ r = d

section InstructionReaders

variable {d r : List Byte} {i : Instr}

theorem of_readCsum (h : readCsum d = .ok (i, r)) : Spells (0x01 :: d) i r := by
  obtain ⟨⟨command, identifier, flags, seq, data⟩, _, h1, h⟩ := bind_ok_of_takes of_readFrameArgs h
  cases h
  exact ⟨rfl, by simp [encode, h1]⟩

theorem of_readCsumVerify (h : readCsumVerify d = .ok (i, r)) : Spells (0x02 :: d) i r := by
  obtain ⟨buf, _, h1, h⟩ := bind_ok_of_takes of_readBytes h
  cases h
  exact ⟨rfl, by simp [encode, h1]⟩

theorem of_readEncodeFrame (h : readEncodeFrame d = .ok (i, r)) : Spells (0x03 :: d) i r := by
  obtain ⟨⟨command, identifier, flags, seq, data⟩, _, h1, h⟩ := bind_ok_of_takes of_readFrameArgs h
  cases h
  exact ⟨rfl, by simp [encode, h1]⟩

theorem of_readDecodeFrame (h : readDecodeFrame d = .ok (i, r)) : Spells (0x04 :: d) i r := by
  obtain ⟨buf, _, h1, h⟩ := bind_ok_of_takes of_readBytes h
  cases h
  exact ⟨rfl, by simp [encode, h1]⟩

theorem of_readTxWrite (h : readTxWrite d = .ok (i, r)) : Spells (0x10 :: d) i r := by
  obtain ⟨⟨command, identifier, flags, seq, data⟩, _, h1, h⟩ := bind_ok_of_takes of_readFrameArgs h
  obtain ⟨T, _, h2, h⟩ := bind_ok_of_takes of_readU32 h
  cases h
  exact ⟨rfl, by simp [encode, h1, h2]⟩

theorem of_readRxRead (h : readRxRead d = .ok (i, r)) : Spells (0x11 :: d) i r := by
  obtain ⟨T, _, h1, h⟩ := bind_ok_of_takes of_readU32 h
  cases h
  exact ⟨rfl, by simp [encode, h1]⟩

theorem of_readRequestFrom (h : readRequestFrom d = .ok (i, r)) : Spells (0x12 :: d) i r := by
  obtain ⟨⟨command, identifier, flags, seq, data⟩, _, h1, h⟩ := bind_ok_of_takes of_readFrameArgs h
  obtain ⟨T, _, h2, h⟩ := bind_ok_of_takes of_readU32 h
  cases h
  exact ⟨rfl, by simp [encode, h1, h2]⟩

theorem of_readSendRequest (h : readSendRequest d = .ok (i, r)) : Spells (0x13 :: d) i r := by
  obtain ⟨node, _, h1, h⟩ := bind_ok_of_takes of_readU16 h
  obtain ⟨payload, _, h2, h⟩ := bind_ok_of_takes of_readBytes h
  obtain ⟨ack, _, h3, h⟩ := bind_ok_of_takes of_readBool h
  obtain ⟨T, _, h4, h⟩ := bind_ok_of_takes of_readU32 h
  cases h
  exact ⟨rfl, by simp [encode, h1, h2, h3, h4]⟩

theorem of_readRespond (h : readRespond d = .ok (i, r)) : Spells (0x14 :: d) i r := by
  obtain ⟨req, _, h1, h⟩ := bind_ok_of_takes of_readFrame h
  obtain ⟨payload, _, h2, h⟩ := bind_ok_of_takes of_readBytes h
  obtain ⟨err, _, h3, h⟩ := bind_ok_of_takes of_readErr h
  obtain ⟨T, _, h4, h⟩ := bind_ok_of_takes of_readU32 h
  cases h
  exact ⟨rfl, by simp [encode, h1, h2, h3, h4]⟩

theorem of_readSetNodeId (h : readSetNodeId d = .ok (i, r)) : Spells (0x15 :: d) i r := by
  obtain ⟨id, _, h1, h⟩ := bind_ok_of_takes of_readU16 h
  cases h
  exact ⟨rfl, by simp [encode, h1]⟩

theorem of_readCanWrite (h : readCanWrite d = .ok (i, r)) : Spells (0x20 :: d) i r := by
  obtain ⟨data, _, h1, h⟩ := bind_ok_of_takes of_readBytes8 h
  obtain ⟨id, _, h2, h⟩ := bind_ok_of_takes of_readU32 h
  obtain ⟨len, _, h3, h⟩ := bind_ok_of_takes of_readLen h
  obtain ⟨T, _, h4, h⟩ := bind_ok_of_takes of_readU32 h
  cases h
  exact ⟨rfl, by simp [encode, h1, h2, h3, h4]⟩

theorem of_readCanRead (h : readCanRead d = .ok (i, r)) : Spells (0x21 :: d) i r := by
  obtain ⟨T, _, h1, h⟩ := bind_ok_of_takes of_readU32 h
  cases h
  exact ⟨rfl, by simp [encode, h1]⟩

theorem of_readCanParse (h : readCanParse d = .ok (i, r)) : Spells (0x22 :: d) i r := by
  obtain ⟨msg, _, h1, h⟩ := bind_ok_of_takes of_readCanMsg h
  cases h
  exact ⟨rfl, by simp [encode, h1]⟩

theorem of_readCanBuild (h : readCanBuild d = .ok (i, r)) : Spells (0x23 :: d) i r := by
  obtain ⟨fields, _, h1, h⟩ := bind_ok_of_takes of_readCanFields h
  cases h
  exact ⟨rfl, by simp [encode, h1]⟩

theorem of_readSendEvent (h : readSendEvent d = .ok (i, r)) : Spells (0x24 :: d) i r := by
  obtain ⟨event, _, h1, h⟩ := bind_ok_of_takes of_readU8 h
  obtain ⟨operand, _, h2, h⟩ := bind_ok_of_takes of_readEventOperand h
  obtain ⟨T, _, h3, h⟩ := bind_ok_of_takes of_readU32 h
  cases h
  exact ⟨rfl, by simp [encode, h1, h2, h3]⟩

theorem of_readWireRxByte (h : readWireRxByte d = .ok (i, r)) : Spells (0x80 :: d) i r := by
  obtain ⟨b, _, h1, h⟩ := bind_ok_of_takes of_readU8 h
  cases h
  exact ⟨rfl, by simp [encode, h1]⟩

theorem of_readCanRxMsg (h : readCanRxMsg d = .ok (i, r)) : Spells (0x83 :: d) i r := by
  obtain ⟨m, _, h1, h⟩ := bind_ok_of_takes of_readCanMsg h
  cases h
  exact ⟨rfl, by simp [encode, h1]⟩

end InstructionReaders

theorem mem_of_lookup_eq_some {α β : Type} [BEq α] [LawfulBEq α] {l : List (α × β)} {k : α} {b : β}
    (h : l.lookup k = some b) : (k, b) ∈ l := by
  obtain ⟨l₁, l₂, rfl, _⟩ := List.lookup_eq_some_iff.mp h
  simp

/-- Every row of the operations: its reader takes the bytes of an instruction behind its code. -/
theorem spells_of_operationRow {b : Byte} {read : List Byte → Except DecodeError (Rest Instr)}
    (hrow : (b, read) ∈ operationRows) {d r : List Byte} {i : Instr} (h : read d = .ok (i, r)) :
    Spells (b :: d) i r := by
  simp only [operationRows, List.mem_cons, Prod.mk.injEq, List.not_mem_nil, or_false] at hrow
  rcases hrow with ⟨rfl, rfl⟩ | ⟨rfl, rfl⟩ | ⟨rfl, rfl⟩ | ⟨rfl, rfl⟩ | ⟨rfl, rfl⟩ | ⟨rfl, rfl⟩ | ⟨rfl, rfl⟩ |
    ⟨rfl, rfl⟩ | ⟨rfl, rfl⟩ | ⟨rfl, rfl⟩ | ⟨rfl, rfl⟩ | ⟨rfl, rfl⟩ | ⟨rfl, rfl⟩ | ⟨rfl, rfl⟩ | ⟨rfl, rfl⟩
  · exact of_readCsum h
  · exact of_readCsumVerify h
  · exact of_readEncodeFrame h
  · exact of_readDecodeFrame h
  · exact of_readTxWrite h
  · exact of_readRxRead h
  · exact of_readRequestFrom h
  · exact of_readSendRequest h
  · exact of_readRespond h
  · exact of_readSetNodeId h
  · exact of_readCanWrite h
  · exact of_readCanRead h
  · exact of_readCanParse h
  · exact of_readCanBuild h
  · exact of_readSendEvent h

/-- Every row of the events, likewise. -/
theorem spells_of_eventRow {b : Byte} {read : List Byte → Except DecodeError (Rest Instr)}
    (hrow : (b, read) ∈ eventRows) {d r : List Byte} {i : Instr} (h : read d = .ok (i, r)) :
    Spells (b :: d) i r := by
  simp only [eventRows, List.mem_cons, Prod.mk.injEq, List.not_mem_nil, or_false] at hrow
  rcases hrow with ⟨rfl, rfl⟩ | ⟨rfl, rfl⟩ | ⟨rfl, rfl⟩ | ⟨rfl, rfl⟩ | ⟨rfl, rfl⟩ | ⟨rfl, rfl⟩ | ⟨rfl, rfl⟩
  · exact of_readWireRxByte h
  · cases h; exact ⟨rfl, rfl⟩
  · cases h; exact ⟨rfl, rfl⟩
  · exact of_readCanRxMsg h
  · cases h; exact ⟨rfl, rfl⟩
  · cases h; exact ⟨rfl, rfl⟩
  · cases h; exact ⟨rfl, rfl⟩

/-! ## Frames that carry a command (R80, R91 to R103) -/

/-- Every command's row: its frame's bytes carry the command byte, and it is well-formed with as many payload
bytes as its length field says. -/
theorem encode_wf_of_commandRow {command : Byte} {make : U16 → U16 → U16 → Byte → Byte → List Byte → Instr}
    (hrow : (command, make) ∈ commandRows) (i f l : U16) (q k : Byte) (d : List Byte) :
    encode (make i f l q k d) = putCommandFrame command i f l q k d ∧ (make i f l q k d).wf = framed l d := by
  simp only [commandRows, List.mem_cons, Prod.mk.injEq, List.not_mem_nil, or_false] at hrow
  rcases hrow with ⟨rfl, rfl⟩ | ⟨rfl, rfl⟩ | ⟨rfl, rfl⟩ | ⟨rfl, rfl⟩ | ⟨rfl, rfl⟩ | ⟨rfl, rfl⟩ | ⟨rfl, rfl⟩ |
    ⟨rfl, rfl⟩ | ⟨rfl, rfl⟩ | ⟨rfl, rfl⟩ | ⟨rfl, rfl⟩ | ⟨rfl, rfl⟩ | ⟨rfl, rfl⟩ <;>
    exact ⟨rfl, rfl⟩

theorem of_readCommandFrame {d r : List Byte} {i : Instr} (h : readCommandFrame d = .ok (i, r)) :
    Spells (frameMark :: d) i r := by
  obtain ⟨command, _, h1, h⟩ := bind_ok_of_takes of_readU8 h
  cases hrow : commandRows.lookup command with
  | none => simp [hrow] at h
  | some make =>
    simp only [hrow] at h
    obtain ⟨identifier, _, h2, h⟩ := bind_ok_of_takes of_readU16 h
    obtain ⟨flags, _, h3, h⟩ := bind_ok_of_takes of_readU16 h
    obtain ⟨length, _, h4, h⟩ := bind_ok_of_takes of_readU16 h
    obtain ⟨seq, _, h5, h⟩ := bind_ok_of_takes of_readU8 h
    obtain ⟨checksum, _, h6, h⟩ := bind_ok_of_takes of_readU8 h
    obtain ⟨⟨data, _⟩, hrun, h⟩ := bind_ok h
    obtain ⟨h7, hlen⟩ := of_readRun hrun
    cases h
    obtain ⟨henc, hwf⟩ :=
      encode_wf_of_commandRow (mem_of_lookup_eq_some hrow) identifier flags length seq checksum data
    exact ⟨by simp [hwf, framed, hlen], by simp [henc, putCommandFrame, h1, h2, h3, h4, h5, h6, h7]⟩

/-- A frame whose payload is as long as its length field says is read back as its command's row. -/
theorem decode_putCommandFrame {command : Byte} {make : U16 → U16 → U16 → Byte → Byte → List Byte → Instr}
    (hrow : commandRows.lookup command = some make) {i f l : U16} {q k : Byte} {d : List Byte}
    (hlen : framed l d = true) (r : List Byte) :
    decode (putCommandFrame command i f l q k d ++ r) = .ok (make i f l q k d, r) := by
  have hrun : readRun l.toNat (d ++ r) = .ok (d, r) := readRun_append (by simpa [framed] using hlen) r
  show readCommandFrame (command :: (putU16 i ++ (putU16 f ++ (putU16 l ++ q :: k :: (d ++ r))))) = _
  simp only [readCommandFrame, readU8_cons, ok_bind, hrow, readU16_putU16, hrun]

/-! ## The decoder -/

/-- What the decoder reads: a frame behind the sync byte, or a row of the operations or events behind its code. -/
theorem decode_cases {d r : List Byte} {i : Instr} (h : decode d = .ok (i, r)) :
    ∃ b args, d = b :: args ∧ ((b = frameMark ∧ readCommandFrame args = .ok (i, r)) ∨
      ∃ read, ((b, read) ∈ operationRows ∨ (b, read) ∈ eventRows) ∧ read args = .ok (i, r)) := by
  cases d with
  | nil => cases h
  | cons b args =>
    refine ⟨b, args, rfl, ?_⟩
    by_cases hmark : b = frameMark
    · exact .inl ⟨hmark, by simpa [decode, hmark] using h⟩
    · cases hop : operationRows.lookup b with
      | some read => exact .inr ⟨read, .inl (mem_of_lookup_eq_some hop), by simpa [decode, hmark, hop] using h⟩
      | none =>
        cases hev : eventRows.lookup b with
        | some read => exact .inr ⟨read, .inr (mem_of_lookup_eq_some hev), by simpa [decode, hmark, hop, hev] using h⟩
        | none => simp [decode, hmark, hop, hev] at h

/-- A well-formed instruction is read back from its bytes. For an operation or event the code selects the row's reader,
which reads back one argument after the other; for a command the frame does. -/
theorem decode_encode (i : Instr) (rest : List Byte) (h : i.wf = true) : decode (encode i ++ rest) = .ok (i, rest) := by
  cases i with
  | csum command identifier flags seq data =>
    show readCsum (putFrameArgs command identifier flags seq data ++ rest) = _
    simp only [readCsum, readFrameArgs_putFrameArgs, ok_bind]
  | csumVerify buf =>
    show readCsumVerify (putBytes buf ++ rest) = _
    simp only [readCsumVerify, readBytes_putBytes, ok_bind]
  | encodeFrame command identifier flags seq data =>
    show readEncodeFrame (putFrameArgs command identifier flags seq data ++ rest) = _
    simp only [readEncodeFrame, readFrameArgs_putFrameArgs, ok_bind]
  | decodeFrame buf =>
    show readDecodeFrame (putBytes buf ++ rest) = _
    simp only [readDecodeFrame, readBytes_putBytes, ok_bind]
  | txWrite command identifier flags seq data T =>
    show readTxWrite (putFrameArgs command identifier flags seq data ++ putU32 T ++ rest) = _
    simp only [readTxWrite, List.append_assoc, readFrameArgs_putFrameArgs, readU32_putU32, ok_bind]
  | rxRead T =>
    show readRxRead (putU32 T ++ rest) = _
    simp only [readRxRead, readU32_putU32, ok_bind]
  | requestFrom command identifier flags seq data T =>
    show readRequestFrom (putFrameArgs command identifier flags seq data ++ putU32 T ++ rest) = _
    simp only [readRequestFrom, List.append_assoc, readFrameArgs_putFrameArgs, readU32_putU32, ok_bind]
  | sendRequest node payload ack T =>
    show readSendRequest (putU16 node ++ putBytes payload ++ putBool ack ++ putU32 T ++ rest) = _
    simp only [readSendRequest, List.append_assoc, readU16_putU16, readBytes_putBytes, readBool_putBool,
      readU32_putU32, ok_bind]
  | respond req payload err T =>
    show readRespond (putFrame req ++ putBytes payload ++ putErr err ++ putU32 T ++ rest) = _
    simp only [readRespond, List.append_assoc, readFrame_putFrame, readBytes_putBytes, readErr_putErr, readU32_putU32,
      ok_bind]
  | setNodeId id =>
    show readSetNodeId (putU16 id ++ rest) = _
    simp only [readSetNodeId, readU16_putU16, ok_bind]
  | canWrite data id len T =>
    show readCanWrite (putBytes8 data ++ putU32 id ++ putLen len ++ putU32 T ++ rest) = _
    simp only [readCanWrite, List.append_assoc, readBytes8_putBytes8, readU32_putU32, readLen_putLen, ok_bind]
  | canRead T =>
    show readCanRead (putU32 T ++ rest) = _
    simp only [readCanRead, readU32_putU32, ok_bind]
  | canParse msg =>
    show readCanParse (putCanMsg msg ++ rest) = _
    simp only [readCanParse, readCanMsg_putCanMsg, ok_bind]
  | canBuild fields =>
    show readCanBuild (putCanFields fields ++ rest) = _
    simp only [readCanBuild, readCanFields_putCanFields, ok_bind]
  | sendEvent event operand T =>
    show readSendEvent (event :: putEventOperand operand ++ putU32 T ++ rest) = _
    simp only [readSendEvent, List.append_assoc, List.cons_append, readU8_cons, readEventOperand_putEventOperand,
      readU32_putU32, ok_bind]
  | canRxMsg m =>
    show readCanRxMsg (putCanMsg m ++ rest) = _
    simp only [readCanRxMsg, readCanMsg_putCanMsg, ok_bind]
  | wireRxByte | wireRxError | wireTxByte | canTxDone | tick | reset => rfl
  | cmdNop | cmdRestart | cmdPing | cmdLedCtrl | cmdDiscover | cmdGetBoardInfo | cmdRequest | cmdEvent
  | cmdFlashLoaderBegin | cmdFlashLoaderWrite | cmdFlashLoaderCheck | cmdFlashLoaderEnd | cmdReadRegister =>
    exact decode_putCommandFrame rfl h rest

/-- The same for the bytes of exactly one instruction. -/
theorem decodeWhole_encode (i : Instr) (h : i.wf = true) : decodeWhole (encode i) = .ok i := by
  have hd : decode (encode i) = .ok (i, []) := by simpa using decode_encode i [] h
  simp [decodeWhole, hd]

/-- What the decoder takes is the bytes of a well-formed instruction. -/
theorem of_decode {d r : List Byte} {i : Instr} (h : decode d = .ok (i, r)) : Spells d i r := by
  obtain ⟨b, args, rfl, ⟨rfl, hframe⟩ | ⟨read, hop | hev, hread⟩⟩ := decode_cases h
  · exact of_readCommandFrame hframe
  · exact spells_of_operationRow hop hread
  · exact spells_of_eventRow hev hread

/-- Settles O1: `decode_encode`, by the constructors of the instruction. -/
theorem decodeInvertsEncode : Obligations.DecodeInvertsEncode :=
  fun i rest h => ⟨decode_encode i rest h, decodeWhole_encode i h⟩

/-- Settles O2: `of_decode`, by the rows of the tables. -/
theorem encodeInvertsDecode : Obligations.EncodeInvertsDecode :=
  fun _ _ _ h => of_decode h

/-- Settles O3: the words are the bytes of those instructions. -/
theorem writtenWordsDecode : Obligations.WrittenWordsDecode :=
  ⟨decodeWhole_encode (.sendRequest 0x0007 [0x24, 0x01] true 100) rfl, decodeWhole_encode (.rxRead tmoInf) rfl,
    decodeWhole_encode (.setNodeId 0x0005) rfl, decodeWhole_encode (.wireRxByte 0xAA) rfl, decodeWhole_encode .tick rfl,
    decodeWhole_encode (.cmdRequest 0x0007 0x0006 0x0002 0x00 0xDE [0x24, 0x01]) rfl⟩

end Sys2Proof

namespace Sys2Proof.Machine

/-! PROOFS. O5, O6, O7 and O50: the turns of the environment and of a task with an unassigned code, and the bytes of a
frame, which arrive one a step whatever its command. -/

/-! ## Fetching (R168, log 2) -/

theorem fetch_of_taskTurn {s : State} {t : Nat} {turns : List Turn} (h : s.turns = .task t :: turns) :
    fetch s = fetchTask { s with turns := turns, active := t } := by
  simp only [fetch, h]

theorem fetch_of_envTurn {s : State} {d : List Byte} {turns : List Turn} (h : s.turns = .env d :: turns) :
    fetch s = fetchEnvironment d { s with turns := turns } := by
  simp only [fetch, h]

/-- Settles O5: the turn is fetched as the instruction that its bytes spell. -/
theorem stepRunsEnvironmentEvent : Obligations.StepRunsEnvironmentEvent := by
  intro s turns d i hturns hdecode
  simp only [step, fetch_of_envTurn hturns, fetchEnvironment, hdecode]

/-! ## Unassigned codes (R114) -/

/-- The codes of R110 lie in three ranges. -/
theorem isOperationCode_ranges {b : Byte} (h : isOperationCode b = true) :
    (0x01 ≤ b.toNat ∧ b.toNat ≤ 0x04) ∨ (0x10 ≤ b.toNat ∧ b.toNat ≤ 0x15) ∨ (0x20 ≤ b.toNat ∧ b.toNat ≤ 0x24) := by
  obtain ⟨read, hread⟩ := Option.isSome_iff_exists.mp h
  have hrows : ∀ row ∈ operationRows, (0x01 ≤ row.1.toNat ∧ row.1.toNat ≤ 0x04) ∨
      (0x10 ≤ row.1.toNat ∧ row.1.toNat ≤ 0x15) ∨ (0x20 ≤ row.1.toNat ∧ row.1.toNat ≤ 0x24) := by decide
  exact hrows _ (mem_of_lookup_eq_some hread)

/-- A task's turn at a descriptor whose code is not in R110. -/
theorem fetchTask_of_unassigned {s : State} {tk : Task} {b : Byte} {d : List Byte}
    (htk : s.tasks[s.active]? = some tk) (hprog : tk.prog[tk.tpc]? = some (b :: d)) (hb : isOperationCode b = false) :
    fetchTask s = .illegal s := by
  simp [fetchTask, State.activeTask, htk, hprog, decodeOperation, hb]

theorem issueIllegal_of_idle {s : State} {tk : Task} (h : Idle s tk) :
    s.issueIllegal = completed s tk .illegalOp .none := by
  rw [State.issueIllegal, State.issueNow_of_idle h, State.complete_eq_completed h.1]

/-- Settles O6: a code outside R110's ranges is fetched as an illegal descriptor, whose issue completes at once. -/
theorem illegalCodeCompletesIllegalOp : Obligations.IllegalCodeCompletesIllegalOp := by
  intro s t turns tk b d hturns htk hcur hprog hb
  have hcode : isOperationCode b = false := by
    rw [← Bool.not_eq_true]
    intro h
    have hranges := isOperationCode_ranges h
    omega
  have hidle : Idle { s with turns := turns, active := t } tk := ⟨htk, hcur⟩
  simp only [step, fetch_of_taskTurn hturns, fetchTask_of_unassigned hidle.1 hprog hcode, issueIllegal_of_idle hidle]

/-! ## Bytes that arrive one a step (R67, R168, R195, log 8) -/

theorem repeatStep_succ {s t : State} (h : step s = .next t) (n : Nat) : repeatStep (n + 1) s = repeatStep n t := by
  simp only [repeatStep, h]

/-- The turns of SerialRxWire deliver their bytes, one each. -/
theorem repeatStep_byteTurns {bs : List Byte} {turns : List Turn} {s : State} (hturns : s.turns = byteTurns bs ++ turns)
    (hfifo : s.rxFifo.length ≤ s.cfg.rxFifoDepth) :
    repeatStep bs.length s = .next (arrived { s with turns := turns } bs) := by
  induction bs generalizing s with
  | nil =>
    subst hturns
    exact congrArg _ (arrived_nil hfifo).symm
  | cons b bs ih =>
    rw [List.length_cons, repeatStep_succ (step_of_byteTurn hturns), receiveByte_eq_arrived (by exact hfifo),
      ih rfl (arrived_within _ _)]
    exact congrArg _ (arrived_arrived (s := { s with turns := turns }) hfifo [b] bs)

theorem deliver_eq_arriving {s : State} (hfifo : s.rxFifo.length ≤ s.cfg.rxFifoDepth) (bs : List Byte) :
    s.deliver bs = arriving s bs := by
  cases bs with
  | nil => simp [arriving, byteTurns, hfifo]
  | cons b bs => simp [arriving, receiveByte_eq_arrived hfifo]

/-- The bytes behind the first arrive in the steps that follow. -/
theorem repeatStep_arriving {s : State} (hfifo : s.rxFifo.length ≤ s.cfg.rxFifoDepth) (b : Byte) (bs : List Byte) :
    repeatStep bs.length (arriving s (b :: bs)) = .next (arrived s (b :: bs)) := by
  have hturns : (arriving s (b :: bs)).turns = byteTurns bs ++ s.turns := rfl
  rw [repeatStep_byteTurns hturns (arrived_within s [b])]
  exact congrArg _ (arrived_arrived hfifo [b] bs)

/-! ## Frames with an unassigned command byte (R104) -/

/-- The command bytes of R91 to R103 lie below 0x0D. -/
theorem lookup_commandRows_eq_none {command : Byte} (h : 0x0D ≤ command.toNat) :
    commandRows.lookup command = none := by
  have hrows : ∀ row ∈ commandRows, row.1.toNat < 0x0D := by decide
  refine Option.eq_none_iff_forall_ne_some.mpr fun make hrow => ?_
  have hbelow : command.toNat < 0x0D := hrows _ (mem_of_lookup_eq_some hrow)
  omega

theorem decodeEnvironment_of_unassignedCommand {command : Byte} (h : commandRows.lookup command = none)
    (d : List Byte) : decodeEnvironment (0xAA :: command :: d) = .error (.unassignedCommand command) := by
  have hframe : readCommandFrame (command :: d) = .error (.unassignedCommand command) := by
    simp only [readCommandFrame, readU8_cons, ok_bind, h]
  have hdecode : decode (0xAA :: command :: d) = .error (.unassignedCommand command) := hframe
  have hcode : isOperationCode 0xAA = false := rfl
  simp only [decodeEnvironment, hcode, Bool.false_eq_true, if_false, decodeWhole, hdecode]

/-- Settles O7: the frame is fetched as raw bytes, and they arrive one a step. -/
theorem unassignedCommandFrameArrives : Obligations.UnassignedCommandFrameArrives := by
  intro s turns command d hturns hcommand hfifo
  have hstep : step s = .next (arriving { s with turns := turns } (0xAA :: command :: d)) := by
    simp only [step, fetch_of_envTurn hturns, fetchEnvironment,
      decodeEnvironment_of_unassignedCommand (lookup_commandRows_eq_none hcommand)]
    exact congrArg _ (deliver_eq_arriving (by exact hfifo) _)
  refine ⟨hstep, ?_⟩
  rw [show 2 + d.length = (command :: d).length + 1 by simp; omega, repeatStep_succ hstep]
  exact repeatStep_arriving (s := { s with turns := turns }) hfifo 0xAA (command :: d)

/-! ## Frames with a command of the table (R91 to R103) -/

theorem arrive_eq_arriving {s : State} (hfifo : s.rxFifo.length ≤ s.cfg.rxFifoDepth) (command : Byte) (i f l : U16)
    (q k : Byte) (d : List Byte) :
    arrive command i f l q k d s = arriving s (frameWith s.cfg command i f l q k d) := by
  rw [arrive, arrivingBytes_eq_frameWith, deliver_eq_arriving hfifo]

/-- Settles O50: every command's row is the arrival of its frame. -/
theorem commandFramesArriveAlike : Obligations.CommandFramesArriveAlike := by
  intro s i f l q k d hfifo
  have harrive (command : Byte) : Host.Outcome.next (arrive command i f l q k d s)
      = (.next (arriving s (frameWith s.cfg command i f l q k d)) : Out) :=
    congrArg _ (arrive_eq_arriving hfifo command i f l q k d)
  refine ⟨harrive _, harrive _, harrive _, harrive _, harrive _, harrive _, harrive _, harrive _, harrive _, harrive _,
    harrive _, harrive _, harrive _, fun bs hbs => ?_⟩
  obtain ⟨b, bs, rfl⟩ := List.exists_cons_of_ne_nil hbs
  exact repeatStep_arriving hfifo b bs

end Sys2Proof.Machine

namespace Sys2Proof.Machine

/-! PROOFS. O11, O12, O17 and O18: the checksum operations, and what the check of R122 says about a frame's bytes. -/

/-! ## The exclusive or of a run of bytes (R10) -/

theorem foldr_xor_append (as bs : List Byte) :
    (as ++ bs).foldr (· ^^^ ·) 0 = as.foldr (· ^^^ ·) 0 ^^^ bs.foldr (· ^^^ ·) 0 := by
  rw [← BitVec.zero_xor (x := List.foldr _ _ (as ++ bs)), ← xorfold_eq, xorfold, List.foldl_append, foldl_xor,
    foldl_xor, BitVec.zero_xor]

/-- Writing one byte keeps the exclusive or only when it is the byte that stood there. -/
theorem foldr_xor_set_eq_iff {bs : List Byte} {n : Nat} (hn : n < bs.length) (v : Byte) :
    (bs.set n v).foldr (· ^^^ ·) 0 = bs.foldr (· ^^^ ·) 0 ↔ v = bs.getD n 0 := by
  induction bs generalizing n with
  | nil => simp at hn
  | cons b bs ih =>
    cases n with
    | zero => exact BitVec.xor_left_inj _
    | succ n => exact (BitVec.xor_right_inj b).trans (ih (Nat.lt_of_succ_lt_succ hn))

/-- A term moves from one side of an exclusive or to the other. -/
theorem xor_eq_iff_xor_eq (x y z : Byte) : x ^^^ y = z ↔ y ^^^ z = x := by
  constructor <;> rintro rfl <;> simp

/-! ## The check of R122 -/

/-- The bytes after the sync byte: the eight of the header that the check covers, the checksum byte, the payload. -/
theorem drop_one_of_header {b : List Byte} (hb : 10 ≤ b.length) :
    b.drop 1 = (b.drop 1).take 8 ++ b.getD 9 0 :: b.drop 10 := by
  rw [List.getD_eq_getElem b 0 hb, List.getElem_cons_drop]
  simpa using (List.take_append_drop 8 (b.drop 1)).symm

/-- The verdict without regard to the order of the bytes. -/
theorem csumOk_eq_decide (c : Config) (b : List Byte) :
    csumOk c b = decide (c.seed ^^^ ((b.drop 1).take 8).foldr (· ^^^ ·) 0 ^^^ (b.drop 10).foldr (· ^^^ ·) 0
      = b.getD 9 0) := by
  rw [csumOk, xorfold_eq, foldr_xor_append, BitVec.xor_assoc, beq_eq_decide]

/-- The check passes exactly when the bytes after the sync byte fold to the seed. -/
theorem csumOk_iff_foldr_drop_one (c : Config) {b : List Byte} (hb : 10 ≤ b.length) :
    csumOk c b = true ↔ (b.drop 1).foldr (· ^^^ ·) 0 = c.seed := by
  have hfold : (b.drop 1).foldr (· ^^^ ·) 0
      = (((b.drop 1).take 8).foldr (· ^^^ ·) 0 ^^^ (b.drop 10).foldr (· ^^^ ·) 0) ^^^ b.getD 9 0 := by
    conv_lhs => rw [drop_one_of_header hb, foldr_xor_append, List.foldr_cons, BitVec.xor_comm (b.getD 9 0)]
    rw [BitVec.xor_assoc]
  rw [csumOk_eq_decide, decide_eq_true_iff, BitVec.xor_assoc, xor_eq_iff_xor_eq, hfold]

/-- Settles O18: the sync byte in front adds itself to both sides. -/
theorem checksumOkIsFoldToSeed : Obligations.ChecksumOkIsFoldToSeed := by
  intro c b hb
  refine ⟨csumOk_iff_foldr_drop_one c hb, fun hsync => ?_, rfl⟩
  obtain ⟨x, bs, rfl⟩ := List.exists_cons_of_length_pos (Nat.lt_of_lt_of_le (by decide) hb)
  obtain rfl : x = c.sync := hsync
  rw [csumOk_iff_foldr_drop_one c hb, List.foldr_cons, BitVec.xor_comm, BitVec.xor_left_inj, List.drop_one,
    List.tail_cons]

/-- Settles O17: a change behind the sync byte changes what the bytes there fold to, which was the seed. -/
theorem singleByteChangeDetected : Obligations.SingleByteChangeDetected := by
  intro c b n v hb hn hlt hv hok
  obtain ⟨x, bs, rfl⟩ := List.exists_cons_of_length_pos (Nat.zero_lt_of_lt hlt)
  obtain ⟨m, rfl⟩ := Nat.exists_eq_add_of_le' hn
  have hseed : bs.foldr (· ^^^ ·) 0 = c.seed := (csumOk_iff_foldr_drop_one c hb).mp hok
  have hchanged : (bs.set m v).foldr (· ^^^ ·) 0 ≠ bs.foldr (· ^^^ ·) 0 :=
    mt (foldr_xor_set_eq_iff (Nat.lt_of_succ_lt_succ hlt) v).mp hv
  rw [← Bool.not_eq_true, csumOk_iff_foldr_drop_one c (by rwa [List.length_set]), ← hseed]
  exact hchanged

/-! ## CSUM and CSUM_VERIFY (R125, R130) -/

/-- An operation that cannot block and whose result the parameters alone decide completes with that result (R169). -/
theorem issueNow_completeWith {s : State} {tk : Task} (h : Idle s tk) (result : Config → Completion) :
    s.issueNow (fun s => s.completeWith (result s.cfg))
      = completed s tk (result s.cfg).status (result s.cfg).result := by
  rw [State.issueNow_of_idle h, State.completeWith, State.complete_eq_completed h.1]

theorem exec_csum_of_idle {s : State} {tk : Task} (h : Idle s tk) (command : Byte) (identifier flags : U16)
    (seq : Byte) (data : List Byte) :
    exec (.csum command identifier flags seq data) s
      = .next (completed s tk (csumResult s.cfg command identifier flags seq data).status
          (csumResult s.cfg command identifier flags seq data).result) :=
  congrArg _ (issueNow_completeWith h fun c => csumResult c command identifier flags seq data)

theorem exec_csumVerify_of_idle {s : State} {tk : Task} (h : Idle s tk) (buf : List Byte) :
    exec (.csumVerify buf) s
      = .next (completed s tk (csumVerifyResult s.cfg buf).status (csumVerifyResult s.cfg buf).result) :=
  congrArg _ (issueNow_completeWith h fun c => csumVerifyResult c buf)

/-- Settles O11: CSUM's checksum is the closed form of R121. -/
theorem csumCompletesWithClosedForm : Obligations.CsumCompletesWithClosedForm := by
  intro s tk command identifier flags seq data hidle
  rw [exec_csum_of_idle hidle, csumResult, csum_eq_closedCsum, lengthOf]
  split_ifs
  all_goals rfl

/-- The length field as a number: its first byte is the low one under LE (R61). -/
theorem lengthField_eq (c : Config) (b : List Byte) :
    lengthField c b = match c.wireOrder with
      | .le => (b.getD 6 0).toNat + 256 * (b.getD 7 0).toNat
      | .be => 256 * (b.getD 6 0).toNat + (b.getD 7 0).toNat := by
  unfold lengthField rd16
  cases c.wireOrder with
  | le => exact (append_bytes_toNat _ _).trans (Nat.add_comm _ _)
  | be => exact append_bytes_toNat _ _

/-- Settles O12: the checks come in the order of R130, each with its own status, and the verdict after them. -/
theorem csumVerifyChecksInOrder : Obligations.CsumVerifyChecksInOrder := by
  intro s tk buf L hidle hL
  have hlength : lengthField s.cfg buf = L := (lengthField_eq s.cfg buf).trans hL.symm
  rw [exec_csumVerify_of_idle hidle, csumVerifyResult, hlength, csumOk_eq_decide]
  split_ifs
  all_goals rfl

end Sys2Proof.Machine

namespace Sys2Proof.Machine

/-! PROOFS. O13 to O16, O28, O32 and O34: the encoder, the decoder over the bytes of a frame, and the read that takes
those bytes one a turn. -/

/-! ## The decoder step, by where its byte falls (R145 to R148) -/

theorem dstep_nil_sync (c : Config) : dstep c [] c.sync = .more [c.sync] := by simp [dstep]

theorem dstep_nil_of_ne_sync {c : Config} {b : Byte} (hb : b ≠ c.sync) : dstep c [] b = .fail .badSync := by
  simp [dstep, hb]

theorem dstep_of_header {c : Config} {buf : List Byte} {b : Byte} (hbuf : buf ≠ []) (hn : buf.length + 1 < c.hdrLen) :
    dstep c buf b = .more (buf ++ [b]) := by
  simp [dstep, hbuf, hn]

theorem dstep_of_payload {c : Config} {buf : List Byte} {b : Byte} (hbuf : buf ≠ [])
    (hn : c.hdrLen ≤ buf.length + 1) (hlen : lengthField c (buf ++ [b]) ≤ c.maxPayload)
    (hless : buf.length + 1 < c.hdrLen + lengthField c (buf ++ [b])) : dstep c buf b = .more (buf ++ [b]) := by
  simp [dstep, hbuf, hn.not_gt, hlen.not_gt, hless]

theorem dstep_of_tooLarge {c : Config} {buf : List Byte} {b : Byte} (hbuf : buf ≠ []) (hn : buf.length + 1 = c.hdrLen)
    (hlen : c.maxPayload < lengthField c (buf ++ [b])) : dstep c buf b = .fail .frameTooLarge := by
  simp [dstep, hbuf, hn, hlen]

/-! ## Runs of bytes that the decoder keeps (R145) -/

/-- A decoder that holds the first bytes keeps every one of the second. -/
inductive Keeps (c : Config) : List Byte → List Byte → Prop
  | nil (buf : List Byte) : Keeps c buf []
  | cons {buf bs : List Byte} {b : Byte} : dstep c buf b = .more (buf ++ [b]) → Keeps c (buf ++ [b]) bs →
      Keeps c buf (b :: bs)

theorem Keeps.snoc {c : Config} {buf bs : List Byte} {b : Byte} (h : Keeps c buf bs)
    (hb : dstep c (buf ++ bs) b = .more (buf ++ bs ++ [b])) : Keeps c buf (bs ++ [b]) := by
  induction h with
  | nil buf => exact .cons (by simpa using hb) (.nil _)
  | cons hkept _ ih => exact .cons hkept (ih (by simpa using hb))

/-- Bytes that the decoder keeps are counted and kept by DECODE's loop, which goes on behind them (R142). -/
theorem decodeLoop_of_keeps {c : Config} {buf bs : List Byte} (h : Keeps c buf bs) (used : Nat) (rest : List Byte) :
    decodeLoop c buf used (bs ++ rest) = decodeLoop c (buf ++ bs) (used + bs.length) rest := by
  induction h generalizing used with
  | nil buf => simp
  | cons hkept _ ih => simp [decodeLoop, hkept, ih, Nat.add_assoc, Nat.add_comm 1]

theorem keeps_of_header {c : Config} {buf bs : List Byte} (hbuf : buf ≠ []) (hn : buf.length + bs.length < c.hdrLen) :
    Keeps c buf bs := by
  induction bs generalizing buf with
  | nil => exact .nil buf
  | cons b bs ih =>
    rw [List.length_cons] at hn
    exact .cons (dstep_of_header hbuf (by omega))
      (ih (by simp) (by rw [List.length_append, List.length_singleton]; omega))

/-- The bytes before the tenth are kept, once the first is the sync byte. -/
theorem keeps_sync_cons {c : Config} {bs : List Byte} (hn : bs.length + 1 < c.hdrLen) : Keeps c [] (c.sync :: bs) :=
  .cons (dstep_nil_sync c) (keeps_of_header (by simp) (by simp; omega))

/-! ## DECODE over the bytes of a frame (R142, R153) -/

section FrameBytes

variable {c : Config} {cm : Byte} {i f : U16} {q k : Byte} {d : List Byte}

/-- What comes of a legal frame before its last byte is kept. -/
theorem keeps_frameWith_take (hl : c.legal = true) (hd : d.length ≤ c.maxPayload) {n : Nat} (hn : n < 10 + d.length) :
    Keeps c [] ((frameWith c cm i f (BitVec.ofNat 16 d.length) q k d).take n) := by
  induction n with
  | zero => exact .nil _
  | succ n ih =>
    obtain ⟨b, hb⟩ : ∃ b, (frameWith c cm i f (BitVec.ofNat 16 d.length) q k d)[n]? = some b :=
      ⟨_, List.getElem?_eq_getElem (by rw [frameWith_length]; omega)⟩
    have htake := List.take_add_one (l := frameWith c cm i f (BitVec.ofNat 16 d.length) q k d) (i := n)
    rw [hb, Option.toList_some] at htake
    rw [htake]
    exact (ih (by omega)).snoc (by simpa only [List.nil_append, htake] using dstep_frameWith_more hl hd hn b hb)

/-- A legal frame is bytes that the decoder keeps, and a last byte. -/
theorem frameWith_eq_keeps_snoc (hl : c.legal = true) (hd : d.length ≤ c.maxPayload) :
    ∃ buf b, Keeps c [] buf ∧ buf ++ [b] = frameWith c cm i f (BitVec.ofNat 16 d.length) q k d ∧
      buf.length + 1 = 10 + d.length := by
  have hlength := frameWith_length c cm i f (BitVec.ofNat 16 d.length) q k d
  have hne : frameWith c cm i f (BitVec.ofNat 16 d.length) q k d ≠ [] := List.ne_nil_of_length_pos (by omega)
  refine ⟨_, _, ?_, List.dropLast_append_getLast hne, ?_⟩
  · rw [List.dropLast_eq_take]
    exact keeps_frameWith_take hl hd (by omega)
  · rw [List.length_dropLast]
    omega

/-- DECODE takes a legal frame whole, and its last byte decides; what follows is not looked at (R142, R148). -/
theorem decodeResult_frameWith_append (hl : c.legal = true) (hd : d.length ≤ c.maxPayload) (rest : List Byte) :
    decodeResult c (frameWith c cm i f (BitVec.ofNat 16 d.length) q k d ++ rest)
      = if k = closedCsum c cm i f (BitVec.ofNat 16 d.length) q d
        then ⟨.ok, .decoded ⟨cm, i, f, BitVec.ofNat 16 d.length, q, k, d⟩ (10 + d.length)⟩
        else ⟨.checksum, .none⟩ := by
  obtain ⟨buf, b, hkept, hsplit, hlength⟩ :=
    frameWith_eq_keeps_snoc (cm := cm) (i := i) (f := f) (q := q) (k := k) hl hd
  rw [← hsplit, List.append_assoc, decodeResult, decodeLoop_of_keeps hkept, List.nil_append, List.singleton_append,
    decodeLoop, dstep_frameWith_last hl hd hsplit]
  by_cases hk : k = closedCsum c cm i f (BitVec.ofNat 16 d.length) q d
  · simp only [hk, if_true, ← hlength, Nat.zero_add]
  · simp only [hk, if_false]

/-- R153 and R154 (first part): DECODE of an encoded frame, whatever follows it. -/
theorem decodeResult_wireFrame_append (hl : c.legal = true) (hd : d.length ≤ c.maxPayload) (rest : List Byte) :
    decodeResult c (wireFrame c cm i f q d ++ rest)
      = ⟨.ok, .decoded (frameRecord c cm i f q d) (10 + d.length)⟩ :=
  (decodeResult_frameWith_append hl hd rest).trans (if_pos rfl)

theorem decodeResult_wireFrame (hl : c.legal = true) (hd : d.length ≤ c.maxPayload) :
    decodeResult c (wireFrame c cm i f q d) = ⟨.ok, .decoded (frameRecord c cm i f q d) (10 + d.length)⟩ := by
  rw [← decodeResult_wireFrame_append hl hd [], List.append_nil]

theorem decodeResult_of_keeps {bs : List Byte} (h : Keeps c [] bs) : decodeResult c bs = ⟨.incomplete, .none⟩ := by
  rw [← List.append_nil bs, decodeResult, decodeLoop_of_keeps h, decodeLoop]

theorem decodeResult_of_ne_sync {b : Byte} (hb : b ≠ c.sync) (rest : List Byte) :
    decodeResult c (b :: rest) = ⟨.badSync, .none⟩ := by
  rw [decodeResult, decodeLoop, dstep_nil_of_ne_sync hb]

/-- The header before the checksum byte: the sync byte and eight more. -/
theorem frameWith_eq_header_append (c : Config) (cm : Byte) (i f l : U16) (q : Byte) :
    ∃ hdr : List Byte, hdr.length = 8 ∧ ∀ k d, frameWith c cm i f l q k d = (c.sync :: hdr) ++ k :: d := by
  unfold frameWith
  cases c.wireOrder with
  | le => exact ⟨[_, _, _, _, _, _, _, _], rfl, fun _ _ => rfl⟩
  | be => exact ⟨[_, _, _, _, _, _, _, _], rfl, fun _ _ => rfl⟩

/-- A length field over MAX_PAYLOAD fails at the tenth byte (R147). -/
theorem decodeResult_frameWith_of_tooLarge (hl : c.legal = true) {l : U16} (hlen : c.maxPayload < l.toNat) :
    decodeResult c (frameWith c cm i f l q k d) = ⟨.frameTooLarge, .none⟩ := by
  obtain ⟨hhdr, _⟩ := legal_bounds hl
  obtain ⟨hdr, hdr_length, hsplit⟩ := frameWith_eq_header_append c cm i f l q
  have hfield : lengthField c (c.sync :: hdr ++ [k]) = l.toNat := by
    rw [← hsplit, lengthField_frameWith]
  rw [hsplit, decodeResult, decodeLoop_of_keeps (keeps_sync_cons (by omega)), List.nil_append, decodeLoop,
    dstep_of_tooLarge (by simp) (by rw [List.length_cons]; omega) (by rwa [hfield])]

/-- CSUM_VERIFY accepts an encoded frame (R130, R153). -/
theorem csumVerifyResult_wireFrame (hl : c.legal = true) (hd : d.length ≤ c.maxPayload) :
    csumVerifyResult c (wireFrame c cm i f q d) = ⟨.ok, .valid true⟩ := by
  obtain ⟨hhdr, _, hmax, _⟩ := legal_bounds hl
  have hfield : lengthField c (wireFrame c cm i f q d) = d.length := by
    rw [wireFrame, lengthField_frameWith, ofNat16_toNat (by omega)]
  have hok : csumOk c (wireFrame c cm i f q d) = true := by
    rw [wireFrame, csumOk_frameWith, decide_eq_true rfl]
  rw [csumVerifyResult, hfield, wireFrame_length, hhdr, hok, if_neg (by omega), if_neg (by omega), if_neg (by omega),
    if_neg (by omega)]

end FrameBytes

/-! ## ENCODE and DECODE (R140, R142) -/

theorem exec_encodeFrame_of_idle {s : State} {tk : Task} (h : Idle s tk) (command : Byte) (identifier flags : U16)
    (seq : Byte) (data : List Byte) :
    exec (.encodeFrame command identifier flags seq data) s
      = .next (completed s tk (encodeResult s.cfg command identifier flags seq data).status
          (encodeResult s.cfg command identifier flags seq data).result) :=
  congrArg _ (issueNow_completeWith h fun c => encodeResult c command identifier flags seq data)

theorem exec_decodeFrame_of_idle {s : State} {tk : Task} (h : Idle s tk) (buf : List Byte) :
    exec (.decodeFrame buf) s
      = .next (completed s tk (decodeResult s.cfg buf).status (decodeResult s.cfg buf).result) :=
  congrArg _ (issueNow_completeWith h fun c => decodeResult c buf)

/-- Settles O13: the emitted bytes are the table of R80, with the closed form of the checksum. -/
theorem encodeEmitsWireLayout : Obligations.EncodeEmitsWireLayout := by
  intro s tk command identifier flags seq data hidle
  rw [exec_encodeFrame_of_idle hidle, encodeResult, enc, frameBytes_eq_wireFrame]
  split_ifs
  all_goals rfl

/-- Settles O14: the decoder keeps every byte of the frame but the last, which completes it. -/
theorem decodeAndVerifyAcceptEncodedFrame : Obligations.DecodeAndVerifyAcceptEncodedFrame := by
  intro s tk command identifier flags seq data hidle hlegal hdata
  constructor
  · rw [exec_decodeFrame_of_idle hidle, decodeResult_wireFrame hlegal hdata, wireFrame_length]
  · rw [exec_csumVerify_of_idle hidle, csumVerifyResult_wireFrame hlegal hdata]

/-- Settles O15: DECODE does not look behind the first frame, and dropping that frame's bytes leaves the second. -/
theorem decodeTakesFramesOneByOne : Obligations.DecodeTakesFramesOneByOne := by
  rintro s tk f g _ hidle hlegal hf hg rfl
  constructor
  · rw [exec_decodeFrame_of_idle hidle, decodeResult_wireFrame_append hlegal hf]
  · rw [List.drop_left' (wireFrame_length ..), exec_decodeFrame_of_idle hidle, decodeResult_wireFrame hlegal hg]

/-- Settles O16: the first byte, the tenth and the last can fail; before the last a buffer only runs out. -/
theorem decodeFailures : Obligations.DecodeFailures := by
  intro s tk command identifier flags seq data rest hidle hlegal
  refine ⟨fun b hb => ?_, fun length checksum hlength => ?_, fun hdata checksum hchecksum => ?_,
    fun hdata n hn => ?_⟩
  · rw [exec_decodeFrame_of_idle hidle, decodeResult_of_ne_sync hb]
  · rw [exec_decodeFrame_of_idle hidle, decodeResult_frameWith_of_tooLarge hlegal hlength]
  · rw [exec_decodeFrame_of_idle hidle, decodeResult_frameWith_append hlegal hdata, if_neg hchecksum]
  · rw [exec_decodeFrame_of_idle hidle, wireFrame, decodeResult_of_keeps (keeps_frameWith_take hlegal hdata hn)]

/-! ## The turn of a read that holds RX_LOCK (R176) -/

/-- How a read of op completes with a frame (R178, R210). -/
def readSucceed (op : Instr) : State → Frame → Bool → Bool → State :=
  if isSendRequest op then succeedResponse else succeedReceived

/-- How a read of op fails (R219, R280). -/
def readFail (op : Instr) : State → Status → State := if isSendRequest op then State.completeDraw else failPlain

theorem readFail_fails (tk : Task) (op : Instr) : Fails tk op (readFail op) := by
  unfold readFail
  split_ifs with h
  · exact completeDraw_fails h
  · exact failPlain_fails (Bool.eq_false_of_not_eq_true h)

/-! ### r_recv, by the decoder's answer to the byte -/

section Receive

variable {s : State} {b : Byte} {rest : List Byte} (corr : Bool) (succ : State → Frame → Bool → Bool → State)
  (fail : State → Status → State)

theorem State.rRecv_of_more (he : s.rxErrPending = false) (hq : s.rxFifo = b :: rest) {buf : List Byte}
    (hd : dstep s.cfg s.rxBuf b = .more buf) :
    s.rRecv corr succ fail = { s with rxFifo := rest, rxBuf := buf } := by
  simp [State.rRecv, he, hq, hd]

theorem State.rRecv_of_fail (he : s.rxErrPending = false) (hq : s.rxFifo = b :: rest) {e : Status}
    (hd : dstep s.cfg s.rxBuf b = .fail e) (hne : e ≠ .ok) : s.rRecv corr succ fail = fail (readDropped s) e := by
  simp [State.rRecv, he, hq, hd, State.rFail_eq _ _ _ hne, readDropped]

/-- A whole frame that the read does not skip goes to the operation (R176, R217). -/
theorem State.rRecv_of_done (he : s.rxErrPending = false) (hq : s.rxFifo = b :: rest) {f : Frame}
    (hd : dstep s.cfg s.rxBuf b = .done f)
    (htaken : ¬ (corr = true ∧ s.cfg.seqStrict = true ∧ matched s f = false)) :
    s.rRecv corr succ fail = succ (readDone s f rest) f (addressed s f) (matched s f) := by
  rw [State.rRecv, if_neg (by simp [he]), hq]
  simp only [hd]
  refine (if_neg htaken).trans ?_
  rw [State.tokenOnRead_eq]
  simp only [true_and]
  rfl

end Receive

/-! ### The turn of any reader -/

section ReadTurn

variable {s : State} {tk : Task} {c : Cur} {b : Byte} {rest : List Byte}

/-- In R_RECV every reader takes the step r_recv; it is correlated when the operation also writes (R217). -/
theorem exec_of_rRecv (h : Running s tk c) (hr : isReadOp c.op = true) (hp : c.phase = .rRecv)
    (hpe : progressEnabled s c = true) :
    exec c.op s = .next (s.rRecv (isWriteOp c.op) (readSucceed c.op) (readFail c.op)) := by
  obtain ⟨op, phase, tmo, gotToken, sub⟩ := c
  obtain rfl : phase = .rRecv := hp
  have hturn := State.blockingTurn_of_progress h hpe
  cases op with
  | rxRead => exact congrArg _ (hturn _ _ _)
  | requestFrom => exact congrArg _ (hturn _ _ _)
  | sendRequest => exact congrArg _ (hturn _ _ _)
  | _ => exact Bool.noConfusion hr

theorem exec_of_rxByte (h : Running s tk c) (hr : isReadOp c.op = true) (hp : c.phase = .rRecv)
    (hq : s.rxFifo = b :: rest) :
    exec c.op s = .next (s.rRecv (isWriteOp c.op) (readSucceed c.op) (readFail c.op)) :=
  exec_of_rRecv h hr hp (by simp [progressEnabled, hp, hq])

theorem exec_of_rxByte_more (h : Running s tk c) (hr : isReadOp c.op = true) (hp : c.phase = .rRecv)
    (he : s.rxErrPending = false) (hq : s.rxFifo = b :: rest) {buf : List Byte}
    (hd : dstep s.cfg s.rxBuf b = .more buf) : exec c.op s = .next { s with rxFifo := rest, rxBuf := buf } :=
  (exec_of_rxByte h hr hp hq).trans (congrArg _ (State.rRecv_of_more _ _ _ he hq hd))

/-- A failing byte: what follows it is flushed, and RX_LOCK and the token are given back (R150, R176, R182). -/
theorem exec_of_rxByte_fail (h : Running s tk c) (hr : isReadOp c.op = true) (hp : c.phase = .rRecv)
    (he : s.rxErrPending = false) (hq : s.rxFifo = b :: rest) {e : Status} (hd : dstep s.cfg s.rxBuf b = .fail e)
    (hne : e ≠ .ok) : exec c.op s = .next (failed (readDropped s) tk c.op e) := by
  rw [exec_of_rxByte h hr hp hq, State.rRecv_of_fail _ _ _ he hq hd hne]
  exact congrArg _ (readFail_fails tk c.op (readDropped s) e h.1)

/-- RX_READ skips no frame: the byte that completes one completes it (R176, R178). -/
theorem exec_rxRead_of_rxByte_done (h : Running s tk c) {T : U32} (ho : c.op = .rxRead T) (hp : c.phase = .rRecv)
    (he : s.rxErrPending = false) (hq : s.rxFifo = b :: rest) {f : Frame} (hd : dstep s.cfg s.rxBuf b = .done f) :
    exec (.rxRead T) s = .next (completed (readDone s f rest) tk .ok (.received f (addressed s f) (matched s f))) := by
  have hread : isReadOp c.op = true := by rw [ho]; rfl
  have htaken : ¬ (isWriteOp c.op = true ∧ s.cfg.seqStrict = true ∧ matched s f = false) := by
    simp [ho, isWriteOp]
  rw [← ho, exec_of_rxByte h hread hp hq, State.rRecv_of_done _ _ _ he hq hd htaken, ho]
  exact congrArg _ (State.complete_eq_completed (s := readDone s f rest) h.1 _ _)

end ReadTurn

/-- Settles O28: each of the three cases is one in which the decoder keeps the byte. -/
theorem readKeepsPartialFrame : Obligations.ReadKeepsPartialFrame := by
  rintro s tk c b rest hrun hread hphase herr hfifo hcase
  refine exec_of_rxByte_more hrun hread hphase herr hfifo ?_
  rcases hcase with ⟨hbuf, rfl⟩ | ⟨hbuf, hshort⟩ | ⟨hbuf, hheader, hlength, hless⟩
  · rw [hbuf, dstep_nil_sync, List.nil_append]
  · exact dstep_of_header hbuf hshort
  · exact dstep_of_payload hbuf hheader hlength hless

/-- Settles O32: each of the three bytes is one at which the decoder fails. -/
theorem badByteFailsReadAndFlushes : Obligations.BadByteFailsReadAndFlushes := by
  intro s tk c b rest hrun hread hphase herr hfifo hlegal
  have hfails {e : Status} := exec_of_rxByte_fail hrun hread hphase herr hfifo (e := e)
  refine ⟨fun hbuf hb => hfails (by rw [hbuf, dstep_nil_of_ne_sync hb]) (by simp), fun hn hlength => ?_,
    fun command identifier flags seq checksum data hdata hframe hchecksum => ?_⟩
  · obtain ⟨hhdr, _⟩ := legal_bounds hlegal
    have hbuf : s.rxBuf ≠ [] := List.ne_nil_of_length_pos (by omega)
    exact hfails (dstep_of_tooLarge hbuf hn hlength) (by simp)
  · exact hfails (by rw [dstep_frameWith_last hlegal hdata hframe, if_neg hchecksum]) (by simp)

/-! ## A read over a whole frame (R151, R176) -/

theorem repeatExec_succ {i : Instr} {s t : State} (h : exec i s = .next t) (n : Nat) :
    repeatExec i (n + 1) s = repeatExec i n t := by
  simp only [repeatExec, h]

/-- A read moves the bytes that the decoder keeps from RX_FIFO into it, one a turn. -/
theorem repeatExec_of_keeps {s : State} {tk : Task} {c : Cur} {bs rest : List Byte} (hrun : Running s tk c)
    (hread : isReadOp c.op = true) (hphase : c.phase = .rRecv) (herr : s.rxErrPending = false)
    (hfifo : s.rxFifo = bs ++ rest) (hkept : Keeps s.cfg s.rxBuf bs) (n : Nat) :
    repeatExec c.op (bs.length + n) s
      = repeatExec c.op n { s with rxFifo := rest, rxBuf := s.rxBuf ++ bs } := by
  induction bs generalizing s with
  | nil =>
    obtain rfl : s.rxFifo = rest := hfifo
    simp
  | cons b bs ih =>
    cases hkept with
    | cons hb hbs =>
      rw [List.cons_append] at hfifo
      rw [List.length_cons, Nat.add_right_comm,
        repeatExec_succ (exec_of_rxByte_more hrun hread hphase herr hfifo hb),
        ih (s := { s with rxFifo := bs ++ rest, rxBuf := s.rxBuf ++ [b] }) hrun herr rfl hbs]
      simp only [List.append_assoc, List.singleton_append]

/-- Settles O34: the read keeps every byte of the frame but the last, which completes it. -/
theorem readOfEncodedFrameCompletes : Obligations.ReadOfEncodedFrameCompletes := by
  rintro s tk c rest command identifier flags seq data T _ hrun hop hphase herr hbuf hlegal hdata hfifo rfl
  have hread : isReadOp c.op = true := by rw [hop]; rfl
  obtain ⟨buf, b, hkept, hframe, hlength⟩ : ∃ buf b, Keeps s.cfg [] buf ∧
      buf ++ [b] = wireFrame s.cfg command identifier flags seq data ∧ buf.length + 1 = 10 + data.length :=
    frameWith_eq_keeps_snoc hlegal hdata
  rw [← hframe, List.append_assoc] at hfifo
  have hdone : dstep s.cfg buf b = .done (frameRecord s.cfg command identifier flags seq data) :=
    (dstep_frameWith_last hlegal hdata hframe).trans (if_pos rfl)
  have hkeep := repeatExec_of_keeps hrun hread hphase herr hfifo (by rwa [hbuf]) 1
  have hlast := exec_rxRead_of_rxByte_done (s := { s with rxFifo := b :: rest, rxBuf := buf }) hrun hop hphase herr rfl
    hdone
  rw [← hlength, ← hop, hkeep, hbuf, List.nil_append, hop]
  exact (repeatExec_succ hlast 0).trans (by simp [repeatExec, readDone, matched, addressed])

end Sys2Proof.Machine

namespace Sys2Proof.Machine

/-! PROOFS. O20, O21 and O23 to O26: the write machine. What a turn of a current operation does is said once for each
kind of turn (progress of a write, progress of a read, expiry, waiting), and the phases follow from it. -/

/-! ## What a write sends (R171, R211) -/

/-- needs_token is the conjunction of direction and ack. -/
theorem needsToken_iff {flags : U16} :
    needsToken flags = true ↔ flags.getLsbD 1 = true ∧ flags.getLsbD 2 = true := Bool.and_eq_true_iff

/-- The flags of R211 are one of four words. -/
theorem requestFlags_eq (c : Config) (node : U16) (ack : Bool) :
    requestFlags c node ack
      = if node = c.broadcastId then (if ack then 0x0007 else 0x0003) else if ack then 0x0006 else 0x0002 := by
  unfold requestFlags
  cases ack <;> split <;> rfl

theorem isWriteOp_of_writtenFrame {s : State} {op : Instr} {f : TxFrame} (h : writtenFrame s op = some f) :
    isWriteOp op = true := by
  rw [← writtenFrame_isSome s, h, Option.isSome_some]

/-- w_enq's effect, with the frame's bytes as the table of R80. -/
theorem State.wEnq_eq (s : State) (f : TxFrame) :
    s.wEnq f = { s with
      txq := s.txq ++ wireFrame s.cfg f.command f.identifier f.flags f.seq f.data, txLock := none } := by
  rw [State.wEnq, frameBytes_eq_wireFrame]

/-! ## Issue (R169, R170, R210, R220) -/

theorem issueWrite_of_fits {s : State} {tk : Task} (h : Idle s tk) {data : List Byte}
    (hdata : data.length ≤ s.cfg.maxPayload) (op : Instr) (T : U32) :
    issueWrite op data T s = proceeds s tk ⟨op, .wLock, T, false, .none⟩ := by
  rw [issueWrite, if_neg hdata.not_gt, State.begin_eq_proceeds h.1]

theorem issueWrite_of_tooLarge {s : State} {tk : Task} (h : Idle s tk) {data : List Byte}
    (hdata : s.cfg.maxPayload < data.length) (op : Instr) (T : U32) :
    issueWrite op data T s = completed s tk .frameTooLarge .none := by
  rw [issueWrite, if_pos hdata, failPlain, State.complete_eq_completed h.1]

section Issue

variable {s : State} {tk : Task} (h : Idle s tk)

include h

theorem exec_txWrite_of_idle (command : Byte) (identifier flags : U16) (seq : Byte) (data : List Byte) (T : U32) :
    exec (.txWrite command identifier flags seq data T) s
      = .next (issueWrite (.txWrite command identifier flags seq data T) data T s) :=
  congrArg _ (State.blockingTurn_of_idle h _ _ _ _)

theorem exec_requestFrom_of_idle (command : Byte) (identifier flags : U16) (seq : Byte) (data : List Byte) (T : U32) :
    exec (.requestFrom command identifier flags seq data T) s
      = .next (issueWrite (.requestFrom command identifier flags seq data T) data T s) :=
  congrArg _ (State.blockingTurn_of_idle h _ _ _ _)

theorem exec_sendRequest_of_idle (node : U16) (payload : List Byte) (ack : Bool) (T : U32) :
    exec (.sendRequest node payload ack T) s
      = .next (issueRequest (.sendRequest node payload ack T) payload T s) :=
  congrArg _ (State.blockingTurn_of_idle h _ _ _ _)

theorem exec_respond_of_idle (req : Frame) (payload : List Byte) (err : Option Byte) (T : U32) :
    exec (.respond req payload err T) s
      = .next (issueRespond (.respond req payload err T) req payload T s) :=
  congrArg _ (State.blockingTurn_of_idle h _ _ _ _)

/-- A request that asks for a response is answered as any write is issued. -/
theorem exec_respond_of_ack {req : Frame} (hack : req.flags.getLsbD 2 = true) (payload : List Byte)
    (err : Option Byte) (T : U32) :
    exec (.respond req payload err T) s = .next (issueWrite (.respond req payload err T) payload T s) := by
  rw [exec_respond_of_idle h, issueRespond, flagAck, hack, if_neg (by decide)]

end Issue

/-- Settles O20, by the issue of each write whose payload fits. -/
theorem legalWritesBecomeCurrent : Obligations.LegalWritesBecomeCurrent := by
  intro s tk command identifier flags seq data T hidle hdata
  refine ⟨⟨?_, fun _ => rfl⟩, ⟨?_, fun _ => rfl⟩, fun node ack => ⟨?_, fun s' => ?_⟩,
    fun req err hack => ⟨?_, fun _ => rfl⟩⟩
  · rw [exec_txWrite_of_idle hidle, issueWrite_of_fits hidle hdata]
  · rw [exec_requestFrom_of_idle hidle, issueWrite_of_fits hidle hdata]
  · rw [exec_sendRequest_of_idle hidle, issueRequest, if_neg hdata.not_gt, State.begin_eq_proceeds hidle.1]
  · rw [← requestFlags_eq]
    rfl
  · rw [exec_respond_of_ack hidle hack, issueWrite_of_fits hidle hdata]

/-- Settles O21, by the issue of each write whose payload does not fit; RESPOND looks at ack before it (R284). -/
theorem writeIssueChecks : Obligations.WriteIssueChecks := by
  intro s tk command identifier flags seq data T hidle
  refine ⟨fun hdata => ⟨?_, ?_, fun node ack => ⟨Config.anyPayload s.draws, ?_⟩, fun req err hack => ?_⟩,
    fun req err hack => ?_⟩
  · rw [exec_txWrite_of_idle hidle, issueWrite_of_tooLarge hidle hdata]
  · rw [exec_requestFrom_of_idle hidle, issueWrite_of_tooLarge hidle hdata]
  · rw [exec_sendRequest_of_idle hidle, issueRequest, if_pos hdata, State.completeDraw_eq_completed hidle.1]
  · rw [exec_respond_of_ack hidle hack, issueWrite_of_tooLarge hidle hdata]
  · rw [exec_respond_of_idle hidle, issueRespond, flagAck, hack, if_pos rfl, State.complete_eq_completed hidle.1]

/-- The entry to a read half, in the claims' terms. -/
theorem State.readHalf_eq_proceeds {s : State} {tk : Task} (htk : s.tasks[s.active]? = some tk) (c : Cur) (T : U32) :
    s.readHalf c T = proceeds s tk { c with phase := .rLock, tmo := T, gotToken := false } :=
  State.setCur_eq_proceeds htk _

/-! ## The turn of a current operation (R168, R190)

By the kind of turn: an operation with two halves takes the write machine's step in the write phases and the read
machine's in the read phases. -/

theorem requestProgress_of_writePhase {enq : State → Cur → State} {succ : State → Frame → Bool → Bool → State}
    {fail : State → Status → State} {s : State} {c : Cur}
    (hp : c.phase = .wLock ∨ c.phase = .wToken ∨ c.phase = .wEnq) :
    requestProgress enq succ fail s c = writeProgress enq s c := by
  rcases hp with hp | hp | hp <;> simp only [requestProgress, hp]

theorem requestProgress_of_readPhase {enq : State → Cur → State} {succ : State → Frame → Bool → Bool → State}
    {fail : State → Status → State} {s : State} {c : Cur} (hp : c.phase = .rLock ∨ c.phase = .rRecv) :
    requestProgress enq succ fail s c = readProgress true succ fail s c := by
  rcases hp with hp | hp <;> simp only [requestProgress, hp]

/-- How a write of op goes on behind its enqueue (R174). -/
def afterEnqueue : Instr → State → Cur → State
  | .requestFrom _ _ _ _ _ T => fun s c => s.readHalf c T
  | .sendRequest _ payload ack T => requestEnqueued payload ack T
  | _ => enqueuedDone

/-- The operations that can block wait in the phases of R112. -/
theorem blocking_of_usesPhase {op : Instr} {ph : Phase} (h : usesPhase op ph = true) :
    isWriteOp op = true ∨ isReadOp op = true ∨ isCanSendOp op = true ∨ isCanReadOp op = true := by
  cases ph with
  | wLock | wToken | wEnq => exact .inl h
  | rLock | rRecv => exact .inr (.inl h)
  | cLock => exact .inr (.inr (Bool.or_eq_true_iff.mp h))
  | cEnq => exact .inr (.inr (.inl h))
  | cDeq => exact .inr (.inr (.inr h))

section Turn

variable {s : State} {tk : Task} {c : Cur} (h : Running s tk c)

include h

theorem exec_of_writeProgress (hw : isWriteOp c.op = true)
    (hp : c.phase = .wLock ∨ c.phase = .wToken ∨ c.phase = .wEnq) (hpe : progressEnabled s c = true) :
    exec c.op s = .next (writeProgress (afterEnqueue c.op) s c) := by
  have hturn := State.blockingTurn_of_progress h hpe
  obtain ⟨op, phase, tmo, gotToken, sub⟩ := c
  cases op with
  | txWrite | respond => exact congrArg _ (hturn _ _ _)
  | requestFrom | sendRequest => exact congrArg _ ((hturn _ _ _).trans (requestProgress_of_writePhase hp))
  | _ => exact Bool.noConfusion hw

/-- A read is correlated when the operation also writes (R217). -/
theorem exec_of_readProgress (hr : mayRead c.op = true) (hp : c.phase = .rLock ∨ c.phase = .rRecv)
    (hpe : progressEnabled s c = true) :
    exec c.op s = .next (readProgress (isWriteOp c.op) (readSucceed c.op) (readFail c.op) s c) := by
  have hturn := State.blockingTurn_of_progress h hpe
  obtain ⟨op, phase, tmo, gotToken, sub⟩ := c
  cases op with
  | rxRead => exact congrArg _ (hturn _ _ _)
  | requestFrom | sendRequest => exact congrArg _ ((hturn _ _ _).trans (requestProgress_of_readPhase hp))
  | _ => exact Bool.noConfusion hr

theorem exec_of_serialExpire (hop : isWriteOp c.op = true ∨ isReadOp c.op = true) (hpe : progressEnabled s c = false)
    (ht : c.tmo = 0) : exec c.op s = .next (serialExpire (readFail c.op) s c) := by
  have hturn := State.blockingTurn_of_expire h hpe ht
  obtain ⟨op, phase, tmo, gotToken, sub⟩ := c
  cases op with
  | txWrite | rxRead | requestFrom | sendRequest | respond => exact congrArg _ (hturn _ _ _)
  | _ => simp [isWriteOp, isReadOp] at hop

theorem exec_of_blocked (huses : usesPhase c.op c.phase = true) (hpe : progressEnabled s c = false) (ht : c.tmo ≠ 0) :
    exec c.op s = .next s := by
  have hturn := State.blockingTurn_of_blocked h hpe ht
  have hblocking := blocking_of_usesPhase huses
  obtain ⟨op, phase, tmo, gotToken, sub⟩ := c
  cases op with
  | txWrite | rxRead | requestFrom | sendRequest | respond | canWrite | canRead | sendEvent =>
    exact congrArg _ (hturn _ _ _)
  | _ => simp [isWriteOp, isReadOp, isCanSendOp, isCanReadOp] at hblocking

end Turn

/-! ## The write machine, by its phases (R172, R174) -/

/-- In W_ENQ the progress step waits for room. -/
theorem progressEnabled_wEnq_eq_false {s : State} {c : Cur} (hp : c.phase = .wEnq)
    (hfull : ∀ f, writtenFrame s c.op = some f → s.cfg.txqCap - s.txq.length < s.cfg.hdrLen + f.data.length) :
    progressEnabled s c = false := by
  simp only [progressEnabled, hp]
  cases hf : writtenFrame s c.op with
  | none => rfl
  | some f => exact decide_eq_false (hfull f hf).not_ge

section Write

variable {s : State} {tk : Task} {c : Cur} {f : TxFrame} (h : Running s tk c) (hf : writtenFrame s c.op = some f)

include h hf

theorem exec_of_wLock (hp : c.phase = .wLock) (hfree : s.txLock = none) :
    exec c.op s = .next (proceeds { s with txLock := some s.active } tk
      { c with phase := if needsToken f.flags then .wToken else .wEnq }) := by
  rw [exec_of_writeProgress h (isWriteOp_of_writtenFrame hf) (.inl hp) (by simp [progressEnabled, hp, hfree])]
  simp only [writeProgress, hf, hp]
  exact congrArg _ (State.setCur_eq_proceeds (s := { s with txLock := some s.active }) h.1 _)

theorem exec_of_wToken (hp : c.phase = .wToken) (hfree : s.ackPending = false) :
    exec c.op s = .next (proceeds { s with ackPending := true, expSeq := f.seq, expId := f.identifier } tk
      { c with gotToken := true, phase := .wEnq }) := by
  rw [exec_of_writeProgress h (isWriteOp_of_writtenFrame hf) (.inr (.inl hp)) (by simp [progressEnabled, hp, hfree])]
  simp only [writeProgress, hf, hp]
  exact congrArg _ (State.setCur_eq_proceeds (s := s.takeToken f.seq f.identifier) h.1 _)

theorem exec_of_wEnq (hp : c.phase = .wEnq) (hroom : s.cfg.hdrLen + f.data.length ≤ s.cfg.txqCap - s.txq.length) :
    exec c.op s = .next (afterEnqueue c.op (s.wEnq f) c) := by
  rw [exec_of_writeProgress h (isWriteOp_of_writtenFrame hf) (.inr (.inr hp))
    (by simp [progressEnabled, hp, hf, txRoom, hroom])]
  simp only [writeProgress, hf, hp]

end Write

/-- Settles O23, by the phases W_LOCK and W_TOKEN; direction and ack decide between W_TOKEN and W_ENQ (R171). -/
theorem writeTakesLockThenToken : Obligations.WriteTakesLockThenToken := by
  intro s tk c f hrun hf
  refine ⟨fun hp hfree => ?_, exec_of_wToken hrun hf⟩
  rw [exec_of_wLock hrun hf hp hfree]
  simp only [needsToken_iff]

/-- Settles O24: w_enq pushes the frame's bytes, and each operation goes on as R174 says. -/
theorem enqueuePushesWholeFrame : Obligations.EnqueuePushesWholeFrame := by
  intro s tk c data T hrun hphase hdata hroom
  have henq {f : TxFrame} {op : Instr} (hop : c.op = op) (hf : writtenFrame s op = some f) (hd : f.data = data) :
      exec c.op s = .next (afterEnqueue op { s with
        txq := s.txq ++ wireFrame s.cfg f.command f.identifier f.flags f.seq f.data, txLock := none } c) := by
    rw [exec_of_wEnq hrun (hop ▸ hf) hphase (hd ▸ hroom), hop, State.wEnq_eq]
  refine ⟨fun command identifier flags seq hop => ?_, fun req err hop => ?_, fun command identifier flags seq hop => ?_,
    fun node hop => ?_, fun node hop => ?_, fun c' data' hlegal hdata' => ?_⟩
  · rw [henq hop rfl rfl]
    exact congrArg _ (State.complete_eq_completed (by exact hrun.1) _ _)
  · rw [henq hop rfl rfl]
    exact congrArg _ (State.complete_eq_completed (by exact hrun.1) _ _)
  · rw [henq hop rfl rfl]
    exact congrArg _ (State.readHalf_eq_proceeds (by exact hrun.1) _ _)
  · rw [henq hop rfl rfl, requestFrame, requestFlags_eq]
    exact congrArg _ (State.readHalf_eq_proceeds (by exact hrun.1) _ _)
  · rw [henq hop rfl rfl, requestFrame, requestFlags_eq]
    exact congrArg _ (State.complete_eq_completed (by exact hrun.1) _ _)
  · obtain ⟨_, _, _, _, _, hcap, _⟩ := legal_bounds hlegal
    rw [Config.maxFrame] at hcap
    omega

/-- Settles O25: the write is blocked in its phase, so its turn is the expire step of R173. -/
theorem writeTimeoutGivesBack : Obligations.WriteTimeoutGivesBack := by
  intro s tk c hrun hw htmo
  have hexpire (hpe : progressEnabled s c = false) := exec_of_serialExpire hrun (.inl hw) hpe htmo
  refine ⟨fun hp hheld => ?_, fun hp hout => ?_, fun hp hfull => ?_⟩
  · rw [hexpire (by simpa [progressEnabled, hp, Option.isSome_iff_ne_none] using hheld), serialExpire, hp]
    exact congrArg _ (readFail_fails tk c.op _ _ hrun.1)
  · rw [hexpire (by simpa [progressEnabled, hp] using hout), serialExpire, hp]
    exact congrArg _ (readFail_fails tk c.op { s with txLock := none } _ hrun.1)
  · rw [hexpire (progressEnabled_wEnq_eq_false hp hfull), serialExpire, hp]
    exact congrArg _ (readFail_fails tk c.op
      { s with txLock := none, ackPending := if c.gotToken then false else s.ackPending } _ hrun.1)

/-! ## A whole TX_WRITE (R169 to R174) -/

/-- The acting task with cur at c, as `proceeds` leaves it. -/
theorem running_proceeds {s : State} {tk : Task} (htk : s.tasks[s.active]? = some tk) (c : Cur) :
    Running (proceeds s tk c) { tk with cur := some c } c := by
  obtain ⟨hlt, _⟩ := List.getElem?_eq_some_iff.mp htk
  exact ⟨List.getElem?_set_self hlt, rfl⟩

section TxWrite

variable {s : State} {tk : Task} {c : Cur} {command : Byte} {identifier flags : U16} {seq : Byte} {data : List Byte}
  {T : U32} (h : Running s tk c) (hop : c.op = .txWrite command identifier flags seq data T)
  (hdata : data.length ≤ s.cfg.maxPayload) (hroom : s.cfg.hdrLen + data.length ≤ s.cfg.txqCap - s.txq.length)

include h hop hdata hroom

theorem repeatExec_txWrite_of_wEnq (hp : c.phase = .wEnq) :
    repeatExec c.op 1 s = .next (completed
      { s with txq := s.txq ++ wireFrame s.cfg command identifier flags seq data, txLock := none } tk .ok .none) := by
  obtain ⟨hwrite, _⟩ := enqueuePushesWholeFrame s tk c data T h hp hdata hroom
  rw [repeatExec_succ (hwrite command identifier flags seq hop), repeatExec]

theorem repeatExec_txWrite_of_wToken (hp : c.phase = .wToken) (hfree : s.ackPending = false) :
    repeatExec c.op 2 s = .next (completed
      { s with txq := s.txq ++ wireFrame s.cfg command identifier flags seq data, txLock := none,
               ackPending := true, expSeq := seq, expId := identifier } tk .ok .none) := by
  have hf : writtenFrame s c.op = some ⟨command, identifier, flags, seq, data⟩ := by rw [hop]; rfl
  have hrun := running_proceeds (s := s.takeToken seq identifier) h.1 { c with gotToken := true, phase := .wEnq }
  rw [repeatExec_succ (exec_of_wToken h hf hp hfree)]
  refine (repeatExec_txWrite_of_wEnq hrun hop hdata hroom rfl).trans ?_
  simp [proceeds, completed]

/-- From W_LOCK the write takes two turns, three with the token, and TX_LOCK is free again behind them. -/
theorem repeatExec_txWrite_of_wLock (hp : c.phase = .wLock) (hlock : s.txLock = none) :
    (needsToken flags = false →
      repeatExec c.op 2 s = .next (completed
        { s with txq := s.txq ++ wireFrame s.cfg command identifier flags seq data } tk .ok .none)) ∧
    (needsToken flags = true → s.ackPending = false →
      repeatExec c.op 3 s = .next (completed
        { s with txq := s.txq ++ wireFrame s.cfg command identifier flags seq data,
                 ackPending := true, expSeq := seq, expId := identifier } tk .ok .none)) := by
  have hf : writtenFrame s c.op = some ⟨command, identifier, flags, seq, data⟩ := by rw [hop]; rfl
  have hstep := exec_of_wLock h hf hp hlock
  have hrun (ph : Phase) := running_proceeds (s := { s with txLock := some s.active }) h.1 { c with phase := ph }
  constructor
  · intro hneeds
    rw [if_neg (by simp [hneeds])] at hstep
    rw [repeatExec_succ hstep]
    refine (repeatExec_txWrite_of_wEnq (hrun .wEnq) hop hdata hroom rfl).trans ?_
    simp [proceeds, completed, hlock]
  · intro hneeds hfree
    rw [if_pos hneeds] at hstep
    rw [repeatExec_succ hstep]
    refine (repeatExec_txWrite_of_wToken (hrun .wToken) hop hdata hroom rfl hfree).trans ?_
    simp [proceeds, completed, hlock]

end TxWrite

/-- Settles O26: the issue takes a turn, and the rest is the run from W_LOCK. -/
theorem unblockedTxWriteCompletes : Obligations.UnblockedTxWriteCompletes := by
  intro s tk command identifier flags seq data T hidle hdata hlock hroom
  have hissue := exec_txWrite_of_idle hidle command identifier flags seq data T
  rw [issueWrite_of_fits hidle hdata] at hissue
  obtain ⟨hplain, htoken⟩ := repeatExec_txWrite_of_wLock
    (running_proceeds hidle.1 ⟨.txWrite command identifier flags seq data T, .wLock, T, false, .none⟩) rfl hdata hroom rfl
    hlock
  refine ⟨fun hneeds => ?_, fun hneeds hfree => ?_⟩
  · rw [repeatExec_succ hissue]
    exact (hplain hneeds).trans (by simp [proceeds, completed])
  · rw [repeatExec_succ hissue]
    exact (htoken hneeds hfree).trans (by simp [proceeds, completed])

end Sys2Proof.Machine

namespace Sys2Proof.Machine

/-! PROOFS. O4, O27, O29, O31, O33, O35, O46, O47, O49 and O55: the read machine phase by phase, what waiting and time
do to a current operation, and which steps end one with TIMEOUT. -/

/-! ## The read machine, by its phases (R175, R176, R191) -/

theorem mayRead_of_isReadOp {op : Instr} (h : isReadOp op = true) : mayRead op = true := by
  cases op with
  | rxRead | requestFrom | sendRequest => rfl
  | _ => exact Bool.noConfusion h

/-- Settles O27: RX_READ's issue, and the phase R_LOCK of any reader. -/
theorem readIssuesAndTakesLock : Obligations.ReadIssuesAndTakesLock := by
  refine ⟨fun s tk T hidle => ?_, fun s tk c hrun hread hp hfree => ?_⟩
  · refine congrArg _ ((State.blockingTurn_of_idle hidle _ _ _ _).trans ?_)
    exact State.begin_eq_proceeds hidle.1 _ _ _ _
  · rw [exec_of_readProgress hrun (mayRead_of_isReadOp hread) (.inl hp) (by simp [progressEnabled, hp, hfree]),
      readProgress, hp]
    exact congrArg _ (State.setCur_eq_proceeds (s := { s with rxLock := some s.active }) hrun.1 _)

/-- A byte that completes a frame which the read does not skip (R176, R217), for every reader. -/
theorem exec_of_rxByte_done {s : State} {tk : Task} {c : Cur} {b : Byte} {rest : List Byte} (h : Running s tk c)
    (hr : mayRead c.op = true) (hp : c.phase = .rRecv) (he : s.rxErrPending = false) (hq : s.rxFifo = b :: rest)
    {f : Frame} (hd : dstep s.cfg s.rxBuf b = .done f) (hstrict : s.cfg.seqStrict = true → matched s f = true) :
    exec c.op s = .next (readSucceed c.op (readDone s f rest) f (addressed s f) (matched s f)) := by
  have htaken : ¬ (isWriteOp c.op = true ∧ s.cfg.seqStrict = true ∧ matched s f = false) := by
    rintro ⟨_, hs, hm⟩
    simp [hstrict hs] at hm
  rw [exec_of_readProgress h hr (.inr hp) (by simp [progressEnabled, hp, hq]), readProgress, hp]
  exact congrArg _ (State.rRecv_of_done _ _ _ he hq hd htaken)

/-- The token goes back with the frame, unless SEQ_STRICT keeps it for one that matches (R182). -/
theorem readDone_of_strict {s : State} {f : Frame} (hstrict : s.cfg.seqStrict = true → matched s f = true)
    (rest : List Byte) :
    readDone s f rest = { s with rxFifo := rest, rxBuf := [], rxLock := none, ackPending := false } := by
  have hgiven : ¬ (s.cfg.seqStrict = true ∧ matched s f = false) := by
    rintro ⟨hs, hm⟩
    simp [hstrict hs] at hm
  rw [readDone, if_neg hgiven]

theorem addressed_iff {s : State} {f : Frame} :
    addressed s f = true ↔ (s.nodeId ≠ s.cfg.undefinedId ∧ f.identifier = s.nodeId) ∨
      f.identifier = s.cfg.broadcastId ∨ f.flags.getLsbD 0 = true := by
  simp [addressed, flagBroadcast, or_assoc]

theorem matched_iff {s : State} {f : Frame} :
    matched s f = true ↔ s.ackPending = true ∧ f.flags.getLsbD 1 = false ∧ f.seq = s.expSeq ∧
      (s.expId = s.cfg.broadcastId ∨ f.identifier = s.expId) := by
  simp [matched, flagDirection, and_assoc]

/-- Settles O29: the byte is the last of an encoded frame, so the decoder is done with it. -/
theorem readCompletesOnWholeFrame : Obligations.ReadCompletesOnWholeFrame := by
  intro s tk c b rest command identifier flags seq data hrun hp herr hfifo hlegal hdata hframe
  obtain ⟨f, hf⟩ : ∃ f, f = frameRecord s.cfg command identifier flags seq data := ⟨_, rfl⟩
  have hdone : dstep s.cfg s.rxBuf b = .done f := by
    rw [hf, dstep_frameWith_last hlegal hdata hframe, if_pos rfl, frameRecord]
  rw [← hf]
  refine ⟨addressed s f, matched s f, ?_, ?_, fun T hop => ?_,
    fun hstrict => ⟨fun rc ri rf rs rd T hop => ?_, fun node payload ack T hop => ?_⟩⟩
  · rw [addressed_iff, hf, frameRecord]
  · rw [matched_iff, hf, frameRecord]
  · rw [hop]
    exact exec_rxRead_of_rxByte_done hrun hop hp herr hfifo hdone
  · rw [exec_of_rxByte_done hrun (by rw [hop]; rfl) hp herr hfifo hdone hstrict, readDone_of_strict hstrict, hop]
    exact congrArg _ (State.complete_eq_completed (by exact hrun.1) _ _)
  · rw [exec_of_rxByte_done hrun (by rw [hop]; rfl) hp herr hfifo hdone hstrict, readDone_of_strict hstrict, hop,
      show data = f.data by rw [hf, frameRecord]]
    exact congrArg _ (State.complete_eq_completed (by exact hrun.1) _ _)

/-- Settles O31: r_recv looks at the pending error before RX_FIFO. -/
theorem driverErrorFailsReadFirst : Obligations.DriverErrorFailsReadFirst := by
  intro s tk c hrun hread hp herr
  rw [exec_of_rRecv hrun hread hp (by simp [progressEnabled, hp, herr]), State.rRecv, if_pos herr,
    State.rFail_eq _ _ _ (by decide)]
  exact congrArg _ (readFail_fails tk c.op (readDropped s) _ hrun.1)

/-- Settles O33: the read is blocked in its phase, so its turn is the expire step of R191. -/
theorem readTimeoutGivesTokenBack : Obligations.ReadTimeoutGivesTokenBack := by
  intro s tk c hrun hread htmo
  have hexpire (hpe : progressEnabled s c = false) := exec_of_serialExpire hrun (.inr hread) hpe htmo
  refine ⟨fun hp hheld => ?_, fun hp herr hfifo => ?_⟩
  · rw [hexpire (by simpa [progressEnabled, hp, Option.isSome_iff_ne_none] using hheld), serialExpire, hp,
      State.tokenOnRead_eq]
    exact congrArg _ (readFail_fails tk c.op { s with ackPending := false } _ hrun.1)
  · rw [hexpire (by simp [progressEnabled, hp, herr, hfifo]), serialExpire, hp]
    simp only
    rw [State.rFail_eq _ _ _ (by decide)]
    exact congrArg _ (readFail_fails tk c.op (readDropped s) _ hrun.1)

/-! ## Waiting (R190, R192) -/

/-- Settles O35: in every phase the condition named is what the progress step waits for. -/
theorem blockedOperationWaits : Obligations.BlockedOperationWaits := by
  intro s tk c hrun huses htmo hwLock hwToken hwEnq hrLock hrRecv hcLock hcEnq hcDeq
  refine exec_of_blocked hrun huses ?_ htmo
  cases hp : c.phase with
  | wLock => simpa [progressEnabled, hp, Option.isSome_iff_ne_none] using hwLock hp
  | wToken => simpa [progressEnabled, hp] using hwToken hp
  | wEnq => exact progressEnabled_wEnq_eq_false hp (hwEnq hp)
  | rLock => simpa [progressEnabled, hp, Option.isSome_iff_ne_none] using hrLock hp
  | rRecv => simpa [progressEnabled, hp] using hrRecv hp
  | cLock => simpa [progressEnabled, hp, Option.isSome_iff_ne_none] using hcLock hp
  | cEnq => simpa [progressEnabled, hp] using hcEnq hp
  | cDeq => simpa [progressEnabled, hp] using hcDeq hp

/-! ## Time (R198) -/

/-- A tick waits while some task's operation has run out of time and cannot progress. -/
theorem anyExpireDue_iff {s : State} :
    anyExpireDue s = true ↔ ∃ tk ∈ s.tasks, ∃ c, tk.cur = some c ∧ c.tmo = 0 ∧ progressEnabled s c = false := by
  rw [anyExpireDue, List.any_eq_true]
  refine exists_congr fun tk => and_congr_right fun _ => ?_
  cases tk.cur <;> simp [expireDue]

/-- What a tick does to a countdown: nothing at 0 and at TMO_INF, and one less otherwise. -/
theorem tickCur_tmo (c : Cur) :
    (c.tmo = 0 ∨ c.tmo = 0xFFFFFFFF → (tickCur c).tmo = c.tmo) ∧
      (c.tmo ≠ 0 → c.tmo ≠ 0xFFFFFFFF → (tickCur c).tmo.toNat + 1 = c.tmo.toNat) := by
  unfold tickCur tmoInf
  constructor
  · intro hstill
    rw [if_pos hstill]
  · intro hpos hfinite
    rw [if_neg (not_or.mpr ⟨hpos, hfinite⟩)]
    dsimp only
    bv_omega

theorem tickCur_sub (c : Cur) : (tickCur c).sub = c.sub := by
  unfold tickCur
  split <;> rfl

/-- Settles O49: a tick that no operation holds up goes over every task's countdown. -/
theorem tickCountsDownUnlessOneIsDue : Obligations.TickCountsDownUnlessOneIsDue := by
  intro s
  constructor
  · intro hnone
    have hdue : ¬ anyExpireDue s = true := by
      rw [anyExpireDue_iff]
      rintro ⟨tk, hmem, c, hcur, htmo, hblocked⟩
      simp [hnone tk hmem c hcur htmo] at hblocked
    refine ⟨s.tasks.map tickTask, by rw [exec, execTick, if_neg hdue], List.length_map _, fun n tk htk => ?_⟩
    refine ⟨tickTask tk, by rw [List.getElem?_map, htk, Option.map_some], rfl, rfl, rfl,
      fun hcur => by rw [tickTask, hcur, Option.map_none], fun c hcur => ?_⟩
    obtain ⟨hop, hphase, hgot⟩ := tickCur_keeps c
    exact ⟨tickCur c, by rw [tickTask, hcur, Option.map_some], hop, hphase, hgot, tickCur_sub c, tickCur_tmo c⟩
  · intro hdue
    rw [exec, execTick, if_pos (anyExpireDue_iff.mpr hdue)]

/-! ## TIMEOUT (R190, R193) -/

/-- The acting task does not complete an operation with TIMEOUT. -/
def NoTimeout (s t : State) : Prop :=
  ∀ tk tk' r, s.tasks[s.active]? = some tk → t.tasks[s.active]? = some tk' → tk'.results ≠ tk.results ++ [⟨.timeout, r⟩]

/-- A task list in which no results grow. -/
theorem noTimeout_of_results {s t : State}
    (h : ∀ tk tk', s.tasks[s.active]? = some tk → t.tasks[s.active]? = some tk' →
      tk'.results = tk.results ∨ tk'.results = []) : NoTimeout s t := by
  intro tk tk' r htk htk' hres
  rcases h tk tk' htk htk' with h | h <;> simp [h] at hres

theorem noTimeout_of_same_tasks {s t : State} (htasks : t.tasks = s.tasks) : NoTimeout s t :=
  noTimeout_of_results fun tk tk' htk htk' => .inl (by rw [htasks, htk] at htk'; cases htk'; rfl)

/-- The acting task's record is written, so its results decide. -/
theorem noTimeout_of_set {s t : State} {tk new : Task} (htk : s.tasks[s.active]? = some tk)
    (htasks : t.tasks = s.tasks.set s.active new) (hnew : ∀ r, new.results ≠ tk.results ++ [⟨.timeout, r⟩]) :
    NoTimeout s t := by
  intro tk₁ tk' r htk₁ htk'
  obtain ⟨hlt, _⟩ := List.getElem?_eq_some_iff.mp htk
  rw [htasks, List.getElem?_set_self hlt] at htk'
  rw [htk] at htk₁
  cases htk₁
  cases htk'
  exact hnew r

theorem noTimeout_proceeds {s : State} (s' : State) {tk : Task} (htk : s.tasks[s.active]? = some tk)
    (htasks : s'.tasks = s.tasks) (hactive : s'.active = s.active) (c : Cur) : NoTimeout s (proceeds s' tk c) :=
  noTimeout_of_set htk (by rw [proceeds, htasks, hactive]) fun r => by simp

theorem noTimeout_completed {s : State} (s' : State) {tk : Task} (htk : s.tasks[s.active]? = some tk)
    (htasks : s'.tasks = s.tasks) (hactive : s'.active = s.active) {st : Status} (hst : st ≠ .timeout)
    (r : ResultRecord) : NoTimeout s (completed s' tk st r) :=
  noTimeout_of_set htk (by rw [completed, htasks, hactive]) fun r' => by simp [hst]

theorem noTimeout_failed {s : State} (s' : State) {tk : Task} (htk : s.tasks[s.active]? = some tk)
    (htasks : s'.tasks = s.tasks) (hactive : s'.active = s.active) (op : Instr) {st : Status} (hst : st ≠ .timeout) :
    NoTimeout s (failed s' tk op st) := by
  rw [failed_eq_completed]
  exact noTimeout_completed _ htk htasks hactive hst _

/-- Only the expire steps complete with TIMEOUT, and they run on an operation that is due and blocked. -/
theorem Moved.timeout_cases {o : Option Instr} {s t : State} (m : Moved o s t) :
    NoTimeout s t ∨ ∃ tk c, Running s tk c ∧ c.tmo = 0 ∧ progressEnabled s c = false := by
  cases m with
  | expiresAtLock tk c h ht hpe | expiresAtToken tk c h ht hpe | expiresAtEnqueue tk c h ht hpe
  | expiresAtRxLock tk c h ht hpe | expiresReading tk c h ht hpe | expiresAtQueue tk c h ht hpe =>
    exact .inr ⟨tk, c, h, ht, hpe⟩
  | stays | keepsByte | skipsFrame | receives | emitsByte | receivesMessage | dropsMessage | sendsMessage =>
    exact .inl (noTimeout_of_same_tasks rfl)
  | begins _ _ _ _ _ h | takesTxLock _ _ _ h | takesToken _ _ _ h | writesThenReads _ _ _ _ h | takesRxLock _ _ h
  | takesCanLock _ _ _ h => exact .inl (noTimeout_proceeds _ h.1 rfl rfl _)
  | completesAtOnce _ _ _ h hst => exact .inl (noTimeout_completed _ h.1 rfl rfl hst _)
  | setsNodeId _ _ h | writes _ _ _ _ h | reads _ _ _ _ _ _ h | queuesMessage _ _ _ h | takesMessage _ _ _ _ h =>
    exact .inl (noTimeout_completed _ h.1 rfl rfl (by decide) _)
  | failsAtOnce _ _ _ h hst => exact .inl (noTimeout_failed _ h.1 rfl rfl _ hst)
  | readFails _ _ _ h _ _ _ hst => exact .inl (noTimeout_failed (readDropped s) h.1 rfl rfl _ hst)
  | ticks =>
    refine .inl (noTimeout_of_results fun tk tk' htk htk' => .inl ?_)
    rw [List.getElem?_map, htk] at htk'
    cases htk'
    rfl
  | resets =>
    refine .inl (noTimeout_of_results fun tk tk' htk htk' => .inr ?_)
    rw [State.resetBlock, List.getElem?_map, htk] at htk'
    cases htk'
    rfl

/-- Only the acting task completes an operation. -/
theorem TasksMoved.actor_of_completion {m n : Nat} {l l' : List Task} {tk tk' : Task} {r : Completion}
    (h : TasksMoved m l l') (htk : l[n]? = some tk) (htk' : l'[n]? = some tk')
    (hres : tk'.results = tk.results ++ [r]) : n = m := by
  by_contra hn
  have hkept : tk'.results = tk.results ∨ tk'.results = [] := by
    cases h with
    | same =>
      rw [htk] at htk'
      cases htk'
      exact .inl rfl
    | goesOn | completes =>
      rw [List.getElem?_set_ne (Ne.symm hn), htk] at htk'
      cases htk'
      exact .inl rfl
    | ticks =>
      rw [List.getElem?_map, htk] at htk'
      cases htk'
      exact .inl rfl
    | resets =>
      rw [List.getElem?_map, htk] at htk'
      cases htk'
      exact .inr rfl
  rcases hkept with h | h <;> simp [h] at hres

/-- Whether a progress step is enabled is no matter of the schedule. -/
theorem progressEnabled_with_turn (s : State) (a : Nat) (ts : List Turn) (c : Cur) :
    progressEnabled { s with active := a, turns := ts } c = progressEnabled s c := by
  simp only [progressEnabled, writtenFrame_with_turn, txRoom]

/-- Settles O55: the task that completes is the acting one, and with TIMEOUT it completes by an expire step. -/
theorem timeoutOnlyWhenDueAndBlocked : Obligations.TimeoutOnlyWhenDueAndBlocked := by
  intro s t n tk tk' r hstep htk htk' hres
  obtain ⟨a, ts, o, m, _⟩ := step_moved hstep
  obtain rfl : n = a := m.tasks.actor_of_completion htk htk' hres
  rcases m.timeout_cases with hno | ⟨tk₁, c, ⟨htk₁, hcur⟩, htmo, hblocked⟩
  · exact absurd hres (hno tk tk' r htk htk')
  · obtain rfl : tk = tk₁ := Option.some.inj (htk.symm.trans htk₁)
    exact ⟨c, hcur, htmo, by rwa [progressEnabled_with_turn] at hblocked⟩

/-! ## Turns of tasks and of the wire (R169, R195 to R197, R266) -/

theorem fetchTask_of_operation {s : State} {tk : Task} {d : List Byte} {i : Instr} (htk : s.tasks[s.active]? = some tk)
    (hprog : tk.prog[tk.tpc]? = some d) (hdecode : decodeOperation d = .ok i) : fetchTask s = .run i s := by
  simp only [fetchTask, State.activeTask, htk, hprog, hdecode]

/-- Settles O4: the turn is fetched as the operation that the descriptor spells. -/
theorem stepRunsTaskOperation : Obligations.StepRunsTaskOperation := by
  intro s t turns tk d i hturns htk hprog hdecode
  rw [step, fetch_of_taskTurn hturns, fetchTask_of_operation (by exact htk) hprog hdecode]

/-- Settles O46, by the two cases of a received byte. -/
theorem wireByteQueuedOrLost : Obligations.WireByteQueuedOrLost := by
  intro s b
  refine ⟨fun hroom => ?_, fun hfull => ?_, rfl⟩
  · rw [exec, execWireRxByte, State.receiveByte, if_pos hroom]
  · rw [exec, execWireRxByte, State.receiveByte, if_neg hfull.not_gt]

/-- Settles O47, by the head of each queue. -/
theorem queuedBytesAndMessagesSent : Obligations.QueuedBytesAndMessagesSent := by
  refine fun s => ⟨fun x rest hq => ?_, fun m rest hq => ?_⟩
  · simp only [exec, execWireTxByte, State.emitByte, hq]
  · simp only [exec, execCanTxDone, State.finishCanTx, hq]

end Sys2Proof.Machine

namespace Sys2Proof.Machine

/-! PROOFS. O22, O30 and O36: the flags a response carries, the frame that a strict correlated read skips, and the node
address. -/

/-! ## RESPOND's flags (R220) -/

/-- The mask of R220 selects broadcast, ack and the reserved bits (R84). -/
theorem keptFlagsMask_getLsbD {i : Nat} (hi : i < 16) :
    (0xF005#16).getLsbD i = decide (i = 0 ∨ i = 2 ∨ 12 ≤ i) := by
  have hbits : ∀ k : Fin 16, (0xF005#16).getLsbD k = decide (k.val = 0 ∨ k.val = 2 ∨ 12 ≤ k.val) := by decide
  exact hbits ⟨i, hi⟩

/-- An error sets the status bit and fills the eight bits above it (R84). -/
theorem errorFlags_getLsbD (e : Byte) {i : Nat} (hi : i < 16) :
    ((0x0001#16 <<< 3) ||| (e.setWidth 16 <<< 4)).getLsbD i
      = (decide (i = 3) || !decide (i < 4) && e.getLsbD (i - 4)) := by
  have hstatus : ∀ k : Fin 16, (0x0001#16 <<< 3).getLsbD k = decide (k.val = 3) := by decide
  rw [BitVec.getLsbD_or, hstatus ⟨i, hi⟩, BitVec.getLsbD_shiftLeft, BitVec.getLsbD_setWidth]
  simp [hi, show i - 4 < 16 by omega]

/-- Every bit of a response's flags: a kept bit of the request's, or the error's status and field (R220). -/
theorem responseFlags_getLsbD (flags : U16) (err : Option Byte) {i : Nat} (hi : i < 16) :
    (responseFlags flags err).getLsbD i
      = (flags.getLsbD i && decide (i = 0 ∨ i = 2 ∨ 12 ≤ i) ||
          (decide (i = 3) && err.isSome || !decide (i < 4) && (err.getD 0).getLsbD (i - 4))) := by
  unfold responseFlags
  rw [BitVec.getLsbD_or, BitVec.getLsbD_and, keptFlagsMask_getLsbD hi]
  cases err with
  | none => simp
  | some e => simp only [errorFlags_getLsbD e hi, Option.isSome_some, Option.getD_some, Bool.and_true]

/-- Settles O22: every bit is known, and the error and the reserved field are runs of bits. -/
theorem responseFlagsBits : Obligations.ResponseFlagsBits := by
  intro flags err
  have hbit {i : Nat} (hi : i < 16) := responseFlags_getLsbD flags err hi
  refine ⟨(hbit (by decide)).trans (by simp), (hbit (by decide)).trans (by simp),
    (hbit (by decide)).trans (by simp), (hbit (by decide)).trans (by simp),
    BitVec.eq_of_getLsbD_eq fun i hi => ?_, BitVec.eq_of_getLsbD_eq fun i hi => ?_⟩
  · rw [BitVec.getLsbD_extractLsb', hbit (by omega)]
    simp [hi, show 4 + i ≠ 0 ∧ 4 + i ≠ 2 ∧ 4 + i ≠ 3 ∧ ¬ 12 ≤ 4 + i by omega]
  · have hbeyond : (err.getD 0).getLsbD (12 + i - 4) = false := BitVec.getLsbD_of_ge _ _ (by omega)
    rw [BitVec.getLsbD_extractLsb', BitVec.getLsbD_extractLsb', hbit (by omega), hbeyond]
    simp [show 12 + i ≠ 3 by omega]

/-! ## A correlated read under SEQ_STRICT (R217) -/

/-- A correlated read takes an unmatched frame's bytes and goes on with an empty decoder, nothing given back. -/
theorem State.rRecv_of_skipped {s : State} {b : Byte} {rest : List Byte} (succ : State → Frame → Bool → Bool → State)
    (fail : State → Status → State) (he : s.rxErrPending = false) (hq : s.rxFifo = b :: rest) {f : Frame}
    (hd : dstep s.cfg s.rxBuf b = .done f) (hstrict : s.cfg.seqStrict = true) (hm : matched s f = false) :
    s.rRecv true succ fail = { s with rxFifo := rest, rxBuf := [] } := by
  rw [State.rRecv, if_neg (by simp [he]), hq]
  simp only [hd]
  exact if_pos ⟨rfl, hstrict, hm⟩

/-- The byte that completes an unmatched frame, for every operation with both halves. -/
theorem exec_of_rxByte_skipped {s : State} {tk : Task} {c : Cur} {b : Byte} {rest : List Byte} (h : Running s tk c)
    (hr : mayRead c.op = true) (hw : isWriteOp c.op = true) (hp : c.phase = .rRecv) (he : s.rxErrPending = false)
    (hq : s.rxFifo = b :: rest) {f : Frame} (hd : dstep s.cfg s.rxBuf b = .done f)
    (hstrict : s.cfg.seqStrict = true) (hm : matched s f = false) :
    exec c.op s = .next { s with rxFifo := rest, rxBuf := [] } := by
  rw [exec_of_readProgress h hr (.inr hp) (by simp [progressEnabled, hp, hq]), readProgress, hp, hw]
  exact congrArg _ (State.rRecv_of_skipped _ _ he hq hd hstrict hm)

/-- Settles O30: the byte ends an encoded frame, which by R216 does not match, and both operations are correlated. -/
theorem strictReadSkipsUnmatchedFrame : Obligations.StrictReadSkipsUnmatchedFrame := by
  intro s tk c b rest command identifier flags seq data hrun hp herr hfifo hlegal hdata hframe hstrict hmismatch hop
  have hdone : dstep s.cfg s.rxBuf b = .done (frameRecord s.cfg command identifier flags seq data) := by
    rw [dstep_frameWith_last hlegal hdata hframe, if_pos rfl, frameRecord]
  have hunmatched : matched s (frameRecord s.cfg command identifier flags seq data) = false :=
    Bool.eq_false_of_not_eq_true fun hm => hmismatch (matched_iff.mp hm)
  obtain ⟨hread, hwrite⟩ : mayRead c.op = true ∧ isWriteOp c.op = true := by
    rcases hop with ⟨_, _, _, _, _, _, hop⟩ | ⟨_, _, _, _, hop⟩
    · rw [hop]; exact ⟨rfl, rfl⟩
    · rw [hop]; exact ⟨rfl, rfl⟩
  exact exec_of_rxByte_skipped hrun hread hwrite hp herr hfifo hdone hstrict hunmatched

/-! ## The node address (R225, R155) -/

/-- Settles O36: the operation cannot block, so its issue step is all of it; addressed reads NODE_ID of its state. -/
theorem setNodeIdWritesNodeId : Obligations.SetNodeIdWritesNodeId := by
  intro s tk id hidle
  constructor
  · refine congrArg _ ((State.issueNow_of_idle hidle _).trans ?_)
    exact State.complete_eq_completed (s := { s with nodeId := id }) hidle.1 .ok .none
  · exact fun f => addressed_iff

end Sys2Proof.Machine

namespace Sys2Proof.Machine

/-! PROOFS. O37 to O45 and O48: the layouts of the eight data bytes, the two operations that only read and build them,
and the CAN operations that block, by their issue, their phases and their expiry. -/

/-! ## The eight data bytes (R106, R107, R241, R258) -/

/-- Reading a short list position by position pads it. -/
theorem map_range_getD {α : Type} {l : List α} {n : Nat} (a : α) (h : l.length ≤ n) :
    (List.range n).map (fun i => l.getD i a) = l ++ List.replicate (n - l.length) a := by
  refine List.ext_getElem (by simp [h]) fun i hi _ => ?_
  rw [List.getElem_map, List.getElem_range, List.getElem_append]
  split_ifs with hlt
  · exact List.getD_eq_getElem l a hlt
  · rw [List.getElem_replicate]
    exact List.getD_eq_default l a (Nat.le_of_not_lt hlt)

/-- The GENERIC layout: the command, then the args padded with zeros to seven. -/
theorem bytes8List_buildGeneric (cmd : Byte) {args : List Byte} (h : args.length ≤ 7) :
    bytes8List (buildGeneric ⟨cmd, args⟩) = cmd :: args ++ List.replicate (7 - args.length) 0 :=
  congrArg (cmd :: ·) (map_range_getD 0 h)

/-- The reserved word of an event is two zero bytes in either order. -/
theorem wr16_zero (o : WireOrder) : wr16 o 0 = [0, 0] := by
  cases o with
  | le => decide
  | be => decide

/-- The LEGACY layout: the two words in the block's byte order behind command and event. -/
theorem bytes8List_buildLegacy (c : Config) (f : LegacyFields) :
    bytes8List (buildLegacy c f) = f.command :: f.event :: (wr16 c.wireOrder f.reserved ++ wr32 c.wireOrder f.data) := by
  unfold buildLegacy
  cases c.wireOrder with
  | le => rfl
  | be => rfl

/-- R259 for GENERIC: the view takes the bytes behind the command as the args. -/
theorem genericView_buildGeneric (cmd : Byte) {args : List Byte} (h : args.length ≤ 7) :
    genericView (buildGeneric ⟨cmd, args⟩) = ⟨cmd, args ++ List.replicate (7 - args.length) 0⟩ :=
  congrArg (GenericFields.mk cmd) (map_range_getD 0 h)

/-- R259 for LEGACY: the words are read in the byte order they were written in. -/
theorem legacyView_buildLegacy (c : Config) (f : LegacyFields) : legacyView c (buildLegacy c f) = f := by
  simp only [legacyView, buildLegacy, rd16_wr16, rd32_wr32]

/-- R241, byte by byte: a message's bytes are kept below len and sent as 0 from there on. -/
theorem getD_bytes8List_zeroBeyond (len : BitVec 4) (d : Bytes8) {n : Nat} (hn : n < 8) :
    (bytes8List (zeroBeyond len d)).getD n 0 = if n < len.toNat then (bytes8List d).getD n 0 else 0 := by
  have hlen : n < (bytes8List d).length := hn
  have hmap : bytes8List (zeroBeyond len d) = (bytes8List d).mapIdx (sentByte len) := rfl
  rw [hmap, List.getD_eq_getElem _ _ (by rwa [List.length_mapIdx]), List.getElem_mapIdx,
    List.getD_eq_getElem _ _ hlen, sentByte]

theorem bytes8List_injective : Function.Injective bytes8List := by
  rintro ⟨⟩ ⟨⟩ h
  simpa [bytes8List] using h

/-- A message with no data at or beyond len is sent as it is. -/
theorem zeroBeyond_eq_self {len : BitVec 4} {d : Bytes8}
    (h : ∀ n, len.toNat ≤ n → n < 8 → (bytes8List d).getD n 0 = 0) : zeroBeyond len d = d := by
  refine bytes8List_injective (List.ext_getElem rfl fun n hn hn' => ?_)
  rw [← List.getD_eq_getElem _ 0 hn, ← List.getD_eq_getElem _ 0 hn', getD_bytes8List_zeroBeyond len d hn]
  split_ifs with hlt
  · rfl
  · exact (h n (Nat.le_of_not_lt hlt) hn).symm

/-! ## CAN_PARSE and CAN_BUILD (R250, R255, R258, R259) -/

section Views

variable {s : State} {tk : Task} (h : Idle s tk)

include h

theorem exec_canParse_of_idle (m : CanMsg) :
    exec (.canParse m) s
      = .next (completed s tk (canParseResult s.cfg m).status (canParseResult s.cfg m).result) :=
  congrArg _ (issueNow_completeWith h fun c => canParseResult c m)

theorem exec_canBuild_of_idle (fields : CanFields) :
    exec (.canBuild fields) s
      = .next (completed s tk (canBuildResult s.cfg fields).status (canBuildResult s.cfg fields).result) :=
  congrArg _ (issueNow_completeWith h fun c => canBuildResult c fields)

/-- A message of full length is parsed into both views and the key. -/
theorem exec_canParse_of_fullLength {m : CanMsg} (hlen : m.len.toNat = s.cfg.canFrameBytes) :
    exec (.canParse m) s = .next (completed s tk .ok
      (.parsed (genericView m.data) (legacyView s.cfg m.data) (eventKey s.cfg m))) := by
  rw [exec_canParse_of_idle h, canParseResult, if_neg (not_not.mpr hlen)]

theorem exec_canBuild_generic_of_fits (cmd : Byte) {args : List Byte} (hargs : args.length ≤ 7) :
    exec (.canBuild (.generic ⟨cmd, args⟩)) s
      = .next (completed s tk .ok (.canData (buildGeneric ⟨cmd, args⟩))) := by
  rw [exec_canBuild_of_idle h, canBuildResult, if_neg hargs.not_gt]

theorem exec_canBuild_legacy (fields : LegacyFields) :
    exec (.canBuild (.legacy fields)) s
      = .next (completed s tk .ok (.canData (buildLegacy s.cfg fields))) := by
  rw [exec_canBuild_of_idle h, canBuildResult]

end Views

/-- The key's event identifier is the byte that holds it in the layout of the bus (R255). -/
theorem eventKey_eventId (c : Config) (m : CanMsg) :
    (eventKey c m).eventId = if c.canLayout = .generic then m.data.b0 else m.data.b1 := by
  unfold eventKey
  cases c.canLayout with
  | generic => rfl
  | legacy => rfl

/-- Settles O37: the words of the LEGACY view are read by the byte order, and the key's node by the identifier. -/
theorem canParseGivesBothViews : Obligations.CanParseGivesBothViews := by
  intro s tk id len d0 d1 d2 d3 d4 d5 d6 d7 hidle
  constructor
  · intro hlen
    rw [exec_canParse_of_idle hidle, canParseResult, if_pos hlen]
  · intro hlen
    refine ⟨rd16 s.cfg.wireOrder d2 d3, rd32 s.cfg.wireOrder d4 d5 d6 d7,
      if id.toNat < 2 ^ 16 then some (id.setWidth 16) else none, ?_, fun hle => ?_, fun hbe => ?_, fun hid => ?_,
      fun hid => if_neg hid.not_gt⟩
    · rw [exec_canParse_of_fullLength hidle hlen, ← eventKey_eventId s.cfg ⟨id, len, ⟨d0, d1, d2, d3, d4, d5, d6, d7⟩⟩]
      rfl
    · rw [hle, rd16, rd32, append_bytes_toNat, append4_bytes_toNat]
      omega
    · rw [hbe, rd16, rd32, append_bytes_toNat, append4_bytes_toNat]
      exact ⟨rfl, rfl⟩
    · exact ⟨id.setWidth 16, if_pos hid, by rw [BitVec.toNat_setWidth, Nat.mod_eq_of_lt hid]⟩

/-- Settles O38, by the two layouts. -/
theorem canBuildLaysOutBytes : Obligations.CanBuildLaysOutBytes := by
  intro s tk hidle
  refine ⟨fun cmd args hargs => ?_, fun cmd args hargs => ?_, fun command event reserved data => ?_⟩
  · rw [exec_canBuild_of_idle hidle, canBuildResult, if_pos hargs]
  · exact ⟨_, exec_canBuild_generic_of_fits hidle cmd hargs, bytes8List_buildGeneric cmd hargs⟩
  · refine ⟨_, exec_canBuild_legacy hidle _, ?_⟩
    rw [bytes8List_buildLegacy]
    cases s.cfg.wireOrder with
    | le => rfl
    | be => rfl

/-- Settles O39: each view takes back the fields of its own layout. -/
theorem canParseInvertsCanBuild : Obligations.CanParseInvertsCanBuild := by
  intro s tk id hidle hbytes
  have hparse (d : Bytes8) := exec_canParse_of_fullLength (m := ⟨id, 8, d⟩) hidle hbytes.symm
  refine ⟨fun cmd args hargs => ?_, fun fields => ?_⟩
  · have hview := hparse (buildGeneric ⟨cmd, args⟩)
    rw [genericView_buildGeneric cmd hargs] at hview
    exact ⟨_, _, _, exec_canBuild_generic_of_fits hidle cmd hargs, hview⟩
  · have hview := hparse (buildLegacy s.cfg fields)
    rw [legacyView_buildLegacy] at hview
    exact ⟨_, _, _, exec_canBuild_legacy hidle fields, hview⟩

/-! ## Issue (R169, R240, R245, R262) -/

theorem canIdInRange_iff {c : Config} {id : U32} : canIdInRange c id = true ↔ id.toNat < 2 ^ c.canIdBits.width :=
  decide_eq_true_iff

theorem canIdInRange_eq_false_iff {c : Config} {id : U32} :
    canIdInRange c id = false ↔ 2 ^ c.canIdBits.width ≤ id.toNat :=
  decide_eq_false_iff_not.trans Nat.not_lt

/-- NODE_ID as a CAN identifier is the same number (R262). -/
theorem nodeId_setWidth_toNat (id : U16) : (id.setWidth 32).toNat = id.toNat :=
  BitVec.toNat_setWidth_of_le (by decide)

section Issue

variable {s : State} {tk : Task} (h : Idle s tk)

include h

theorem exec_canWrite_of_idle (data : Bytes8) (id : U32) (len : BitVec 4) (T : U32) :
    exec (.canWrite data id len T) s = .next (issueCanWrite (.canWrite data id len T) id len T s) :=
  congrArg _ (State.blockingTurn_of_idle h _ _ _ _)

theorem exec_canRead_of_idle (T : U32) :
    exec (.canRead T) s = .next (proceeds s tk ⟨.canRead T, .cLock, T, false, .none⟩) :=
  congrArg _ ((State.blockingTurn_of_idle h _ _ _ _).trans (State.begin_eq_proceeds h.1 _ _ _ _))

theorem exec_sendEvent_of_idle (event : Byte) (operand : EventOperand) (T : U32) :
    exec (.sendEvent event operand T) s
      = .next (issueSendEvent (.sendEvent event operand T) event operand T s) :=
  congrArg _ (State.blockingTurn_of_idle h _ _ _ _)

/-- An operand that has no bytes under CAN_LAYOUT is refused. -/
theorem issueSendEvent_of_misfit {event : Byte} {operand : EventOperand}
    (hbytes : eventBytes s.cfg event operand = none) (op : Instr) (T : U32) :
    issueSendEvent op event operand T s = completed s tk .arg .none := by
  rw [issueSendEvent, hbytes]
  exact State.complete_eq_completed h.1 _ _

/-- A NODE_ID too wide for an identifier is refused, whatever the operand. -/
theorem issueSendEvent_of_wideNodeId (hid : 2 ^ s.cfg.canIdBits.width ≤ s.nodeId.toNat) (op : Instr) (event : Byte)
    (operand : EventOperand) (T : U32) : issueSendEvent op event operand T s = completed s tk .arg .none := by
  cases hbytes : eventBytes s.cfg event operand with
  | none => exact issueSendEvent_of_misfit h hbytes op T
  | some d =>
    rw [issueSendEvent, hbytes]
    exact (if_pos (canIdInRange_eq_false_iff.mpr (by rwa [nodeId_setWidth_toNat]))).trans
      (State.complete_eq_completed h.1 _ _)

/-- Otherwise the message is built, with NODE_ID as it is now, and waits for CAN_LOCK. -/
theorem issueSendEvent_of_fits {event : Byte} {operand : EventOperand} {d : Bytes8}
    (hbytes : eventBytes s.cfg event operand = some d) (hid : s.nodeId.toNat < 2 ^ s.cfg.canIdBits.width) (op : Instr)
    (T : U32) :
    issueSendEvent op event operand T s = proceeds s tk
      ⟨op, .cLock, T, false, .msg ⟨s.nodeId.setWidth 32, BitVec.ofNat 4 s.cfg.canFrameBytes, d⟩⟩ := by
  have hrange : canIdInRange s.cfg (s.nodeId.setWidth 32) = true :=
    canIdInRange_iff.mpr (by rwa [nodeId_setWidth_toNat])
  rw [issueSendEvent, hbytes]
  exact (if_neg (by simp [hrange])).trans (State.begin_eq_proceeds h.1 _ _ _ _)

end Issue

/-- Settles O40: the checks of CAN_WRITE's issue, of which either can fail, and CAN_READ has none. -/
theorem canIssueChecks : Obligations.CanIssueChecks := by
  intro s tk data id len T hidle
  refine ⟨fun hbad => ?_, fun hlen hid => ?_, exec_canRead_of_idle hidle T⟩
  · rw [exec_canWrite_of_idle hidle, issueCanWrite, failPlain, State.complete_eq_completed hidle.1]
    split_ifs with hlen hrange
    · rfl
    · rfl
    · exact absurd (canIdInRange_eq_false_iff.mpr (hbad.resolve_left hlen)) hrange
  · rw [exec_canWrite_of_idle hidle, issueCanWrite, if_neg hlen.not_gt,
      if_neg (by simp [canIdInRange_iff.mpr hid]), State.begin_eq_proceeds hidle.1]

/-! ### What SEND_EVENT's operand spells (R262) -/

theorem eventBytes_generic_args {c : Config} (hc : c.canLayout = .generic) (event : Byte) {args : List Byte}
    (hargs : args.length ≤ 7) : eventBytes c event (.args args) = some (buildGeneric ⟨event, args⟩) := by
  simp only [eventBytes, hc, if_neg hargs.not_gt]

theorem eventBytes_generic_longArgs {c : Config} (hc : c.canLayout = .generic) (event : Byte) {args : List Byte}
    (hargs : 7 < args.length) : eventBytes c event (.args args) = none := by
  simp only [eventBytes, hc, if_pos hargs]

theorem eventBytes_generic_data {c : Config} (hc : c.canLayout = .generic) (event : Byte) (word : U32) :
    eventBytes c event (.data word) = none := by
  simp only [eventBytes, hc]

theorem eventBytes_legacy_data {c : Config} (hc : c.canLayout = .legacy) (event : Byte) (word : U32) :
    eventBytes c event (.data word) = some (buildLegacy c ⟨commandEvent, event, 0, word⟩) := by
  simp only [eventBytes, hc]

theorem eventBytes_legacy_args {c : Config} (hc : c.canLayout = .legacy) (event : Byte) (args : List Byte) :
    eventBytes c event (.args args) = none := by
  simp only [eventBytes, hc]

/-- Settles O41: an operand spells eight bytes exactly when it fits CAN_LAYOUT, in the layouts of R258. -/
theorem sendEventBuildsMessage : Obligations.SendEventBuildsMessage := by
  intro s tk event T hidle hframe
  have hlen : BitVec.ofNat 4 s.cfg.canFrameBytes = 8 := congrArg (BitVec.ofNat 4) hframe
  refine ⟨fun operand hbad => ?_, fun hid => ⟨fun hgeneric args hargs => ?_, fun hlegacy word => ?_⟩⟩
  · rw [exec_sendEvent_of_idle hidle]
    refine congrArg _ ?_
    rcases hbad with ⟨hgeneric, ⟨w, rfl⟩ | ⟨args, rfl, hargs⟩⟩ | ⟨hlegacy, args, rfl⟩ | hid
    · exact issueSendEvent_of_misfit hidle (eventBytes_generic_data hgeneric event w) _ T
    · exact issueSendEvent_of_misfit hidle (eventBytes_generic_longArgs hgeneric event hargs) _ T
    · exact issueSendEvent_of_misfit hidle (eventBytes_legacy_args hlegacy event args) _ T
    · exact issueSendEvent_of_wideNodeId hidle hid _ event operand T
  · have hissue := issueSendEvent_of_fits hidle (eventBytes_generic_args hgeneric event hargs) hid
    exact ⟨_, (exec_sendEvent_of_idle hidle _ _ T).trans (congrArg _ (hissue _ T)), nodeId_setWidth_toNat s.nodeId,
      hlen, bytes8List_buildGeneric event hargs⟩
  · have hissue := issueSendEvent_of_fits hidle (eventBytes_legacy_data hlegacy event word) hid
    refine ⟨_, (exec_sendEvent_of_idle hidle _ _ T).trans (congrArg _ (hissue _ T)), nodeId_setWidth_toNat s.nodeId,
      hlen, ?_⟩
    rw [bytes8List_buildLegacy, wr16_zero]
    cases s.cfg.wireOrder with
    | le => rfl
    | be => rfl

/-! ## The turn of a current CAN operation (R240, R241, R245, R247) -/

section CanTurn

variable {s : State} {tk : Task} {c : Cur} (h : Running s tk c)

include h

theorem exec_of_canWriteProgress (hop : isCanSendOp c.op = true) (hpe : progressEnabled s c = true) :
    exec c.op s = .next (canWriteProgress s c) := by
  have hturn := State.blockingTurn_of_progress h hpe
  obtain ⟨op, phase, tmo, gotToken, sub⟩ := c
  cases op with
  | canWrite | sendEvent => exact congrArg _ (hturn _ _ _)
  | _ => exact Bool.noConfusion hop

theorem exec_of_canReadProgress (hop : isCanReadOp c.op = true) (hpe : progressEnabled s c = true) :
    exec c.op s = .next (canReadProgress s c) := by
  have hturn := State.blockingTurn_of_progress h hpe
  obtain ⟨op, phase, tmo, gotToken, sub⟩ := c
  cases op with
  | canRead => exact congrArg _ (hturn _ _ _)
  | _ => exact Bool.noConfusion hop

theorem exec_of_canExpire (hop : isCanSendOp c.op = true ∨ isCanReadOp c.op = true)
    (hpe : progressEnabled s c = false) (ht : c.tmo = 0) : exec c.op s = .next (canExpire s c) := by
  have hturn := State.blockingTurn_of_expire h hpe ht
  obtain ⟨op, phase, tmo, gotToken, sub⟩ := c
  cases op with
  | canWrite | canRead | sendEvent => exact congrArg _ (hturn _ _ _)
  | _ => simp [isCanSendOp, isCanReadOp] at hop

/-- c_lock's effect, in the claims' terms. -/
theorem State.cLock_eq_proceeds (next : Phase) :
    s.cLock c next = proceeds { s with canLock := some s.active } tk { c with phase := next } :=
  State.setCur_eq_proceeds (s := { s with canLock := some s.active }) h.1 _

/-- c_enq's effect, in the claims' terms. -/
theorem State.cEnq_eq_completed (m : CanMsg) :
    s.cEnq m = completed { s with canTxq := s.canTxq ++ [⟨m.id, m.len, zeroBeyond m.len m.data⟩], canLock := none } tk
      .ok .none :=
  State.complete_eq_completed
    (s := { s with canTxq := s.canTxq ++ [⟨m.id, m.len, zeroBeyond m.len m.data⟩], canLock := none }) h.1 _ _

/-- c_deq's effect, in the claims' terms. -/
theorem State.cDeq_eq_completed {m : CanMsg} {rest : List CanMsg} (hq : s.canRxq = m :: rest) :
    s.cDeq = completed { s with canRxq := rest, canLock := none } tk .ok (.canMsg m) := by
  rw [State.cDeq, hq]
  exact State.complete_eq_completed (s := { s with canRxq := rest, canLock := none }) h.1 _ _

/-- c_enq is enabled by room in CAN_TXQ, and queues the operation's message. -/
theorem exec_of_cEnq (hop : isCanSendOp c.op = true) (hp : c.phase = .cEnq)
    (hroom : s.canTxq.length < s.cfg.canTxqDepth) {m : CanMsg} (hm : sentMsg c = some m) :
    exec c.op s = .next (completed
      { s with canTxq := s.canTxq ++ [⟨m.id, m.len, zeroBeyond m.len m.data⟩], canLock := none } tk .ok .none) := by
  rw [exec_of_canWriteProgress h hop (by simpa [progressEnabled, hp] using hroom), canWriteProgress, hp, hm]
  exact congrArg _ (State.cEnq_eq_completed h m)

end CanTurn

/-- Settles O42, by the phase C_LOCK of either kind of operation. -/
theorem canLockTaken : Obligations.CanLockTaken := by
  intro s tk c hrun hp hfree
  have hpe : progressEnabled s c = true := by simp [progressEnabled, hp, hfree]
  refine ⟨fun hsend => ?_, fun hread => ?_⟩
  · rw [exec_of_canWriteProgress hrun hsend hpe, canWriteProgress, hp]
    exact congrArg _ (State.cLock_eq_proceeds hrun .cEnq)
  · rw [exec_of_canReadProgress hrun hread hpe, canReadProgress, hp]
    exact congrArg _ (State.cLock_eq_proceeds hrun .cDeq)

/-- Settles O43: the message is CAN_WRITE's own or stands in sub, and its bytes are sent as R241 says. -/
theorem canMessageQueued : Obligations.CanMessageQueued := by
  intro s tk c m hrun hp hmsg hroom
  obtain ⟨hop, hm⟩ : isCanSendOp c.op = true ∧ sentMsg c = some m := by
    rcases hmsg with ⟨T, hop⟩ | ⟨⟨event, operand, T, hop⟩, hsub⟩
    · exact ⟨by rw [hop]; rfl, by simp only [sentMsg, hop]⟩
    · exact ⟨by rw [hop]; rfl, by simp only [sentMsg, hop, hsub]⟩
  exact ⟨zeroBeyond m.len m.data, exec_of_cEnq hrun hop hp hroom hm,
    fun n hn => getD_bytes8List_zeroBeyond m.len m.data hn⟩

/-- Settles O44: a message in CAN_RXQ enables c_deq, which takes the head. -/
theorem canReadTakesOldestMessage : Obligations.CanReadTakesOldestMessage := by
  intro s tk c m rest hrun hread hp hq
  rw [exec_of_canReadProgress hrun hread (by simp [progressEnabled, hp, hq]), canReadProgress, hp]
  exact congrArg _ (State.cDeq_eq_completed hrun hq)

/-- Settles O45: the operation is blocked in its phase, so its turn is the expire step of R247. -/
theorem canTimeoutGivesLockBack : Obligations.CanTimeoutGivesLockBack := by
  intro s tk c hrun hop htmo
  have hexpire (hpe : progressEnabled s c = false) := exec_of_canExpire hrun hop hpe htmo
  have hgives := State.complete_eq_completed (s := { s with canLock := none }) hrun.1 .timeout .none
  refine ⟨fun hp hheld => ?_, fun hp hfull => ?_, fun hp hempty => ?_⟩
  · rw [hexpire (by simpa [progressEnabled, hp, Option.isSome_iff_ne_none] using hheld), canExpire, hp]
    exact congrArg _ (State.complete_eq_completed hrun.1 .timeout .none)
  · rw [hexpire (by simpa [progressEnabled, hp] using hfull), canExpire, hp]
    exact congrArg _ hgives
  · rw [hexpire (by simp [progressEnabled, hp, hempty]), canExpire, hp]
    exact congrArg _ hgives

/-! ## Messages from the bus (R265) -/

theorem canDeliverable_of_clean {c : Config} {m : CanMsg} (hlen : m.len.toNat ≤ c.canFrameBytes)
    (hid : m.id.toNat < 2 ^ c.canIdBits.width)
    (hdata : ∀ n, m.len.toNat ≤ n → n < 8 → (bytes8List m.data).getD n 0 = 0) : canDeliverable c m = true := by
  simp [canDeliverable, hlen, canIdInRange_iff.mpr hid, zeroBeyond_eq_self hdata]

/-- Settles O48: the message is deliverable, and it finds room in CAN_RXQ or is counted. -/
theorem canMessageReceivedOrDropped : Obligations.CanMessageReceivedOrDropped := by
  intro s m hlen hframe hid hdata
  have hreceive : exec (.canRxMsg m) s = .next (s.receiveCan m) :=
    congrArg _ (if_pos (canDeliverable_of_clean (hframe ▸ hlen) hid hdata))
  refine ⟨fun hroom => ?_, fun hfull => ⟨s.canRxDrops + 1, BitVec.toNat_add _ _, ?_⟩⟩
  · rw [hreceive, State.receiveCan, if_pos hroom]
  · rw [hreceive, State.receiveCan, if_neg hfull.not_gt]

end Sys2Proof.Machine

namespace Sys2Proof.Machine

/-! PROOFS. O8 and O54: what a step is refused for, and what a step leaves of every task's results and program index. -/

/-! ## Refusals (R115, R283, log 6) -/

/-- A task's turn is refused for the descriptor at its program index, which spells nothing. -/
theorem fetchTask_refuse {s : State} {r : Refusal} (h : fetchTask s = .refuse r) :
    ∃ tk d why, s.tasks[s.active]? = some tk ∧ tk.prog[tk.tpc]? = some d ∧ decodeOperation d = .error why ∧
      r = .unspelled why := by
  unfold fetchTask at h
  split at h
  case h_1 => cases h
  case h_2 tk htk =>
    split at h
    case h_1 => cases h
    case h_2 d hprog =>
      split at h
      case h_1 | h_2 => cases h
      case h_3 why _ hdecode =>
        cases h
        exact ⟨tk, d, why, htk, hprog, hdecode, rfl⟩

/-- An environment turn is refused for its own bytes, which spell nothing. -/
theorem fetchEnvironment_refuse {d : List Byte} {s : State} {r : Refusal} (h : fetchEnvironment d s = .refuse r) :
    ∃ why, decodeEnvironment d = .error why ∧ r = .unspelled why := by
  unfold fetchEnvironment at h
  split at h
  case h_1 | h_2 => cases h
  case h_3 why _ hdecode =>
    cases h
    exact ⟨why, hdecode, rfl⟩

/-- Every instruction answers a next state, so only the fetch refuses. -/
theorem fetch_of_step_refused {s : State} {r : Refusal} (h : step s = .refused r) : fetch s = .refuse r := by
  unfold step at h
  cases hf : fetch s with
  | run i s' =>
    obtain ⟨t, hexec, _⟩ := exec_moved i s'
    simp only [hf, hexec] at h
    cases h
  | refuse r' =>
    rw [hf] at h
    cases h
    rfl
  | _ =>
    rw [hf] at h
    cases h

/-- Settles O8: `exec` is total by `exec_moved`, and a refused fetch is a turn of the one kind or of the other. -/
theorem onlyUnspelledBytesStop : Obligations.OnlyUnspelledBytesStop := by
  refine ⟨fun i s => (exec_moved i s).imp fun _ => And.left, fun s r hstep => ?_⟩
  have hfetch := fetch_of_step_refused hstep
  match hturns : s.turns with
  | [] =>
    simp only [fetch, hturns] at hfetch
    cases hfetch
  | .task t :: turns =>
    rw [fetch_of_taskTurn hturns] at hfetch
    obtain ⟨tk, d, why, htk, hprog, hdecode, hr⟩ := fetchTask_refuse hfetch
    exact ⟨why, hr, .inl ⟨t, turns, tk, d, rfl, htk, hprog, hdecode⟩⟩
  | .env d :: turns =>
    rw [fetch_of_envTurn hturns] at hfetch
    obtain ⟨why, hdecode, hr⟩ := fetchEnvironment_refuse hfetch
    exact ⟨why, hr, .inr ⟨d, turns, rfl, hdecode⟩⟩

/-! ## Completions (R11, R34, R283) -/

/-- No operation of the task completes. -/
def KeepsRecord (tk tk' : Task) : Prop := tk'.results = tk.results ∧ tk'.tpc = tk.tpc

/-- The task's operation completes, once (R11). -/
def CompletesOnce (tk tk' : Task) : Prop :=
  tk'.tpc = tk.tpc + 1 ∧ tk'.cur = none ∧ ∃ r, tk'.results = tk.results ++ [r]

/-- Task n completes at most one operation, and no other task completes one. -/
def OnlyCompletes (n : Nat) (l l' : List Task) : Prop :=
  ∀ (k : Nat) (tk tk' : Task), l[k]? = some tk → l'[k]? = some tk' →
    KeepsRecord tk tk' ∨ (k = n ∧ CompletesOnce tk tk')

theorem onlyCompletes_refl (n : Nat) (l : List Task) : OnlyCompletes n l l := by
  intro k tk tk' htk htk'
  obtain rfl : tk = tk' := Option.some.inj (htk.symm.trans htk')
  exact .inl ⟨rfl, rfl⟩

theorem onlyCompletes_set {n : Nat} {l : List Task} {tk new : Task} (htk : l[n]? = some tk)
    (hnew : KeepsRecord tk new ∨ CompletesOnce tk new) : OnlyCompletes n l (l.set n new) := by
  intro k tk₁ tk' htk₁ htk'
  by_cases hk : k = n
  · subst hk
    obtain ⟨hlt, _⟩ := List.getElem?_eq_some_iff.mp htk
    rw [List.getElem?_set_self hlt] at htk'
    obtain rfl : tk = tk₁ := Option.some.inj (htk.symm.trans htk₁)
    obtain rfl : new = tk' := Option.some.inj htk'
    exact hnew.imp_right fun h => ⟨rfl, h⟩
  · rw [List.getElem?_set_ne (Ne.symm hk)] at htk'
    exact onlyCompletes_refl n l k tk₁ tk' htk₁ htk'

theorem onlyCompletes_tick (n : Nat) (l : List Task) : OnlyCompletes n l (l.map tickTask) := by
  intro k tk tk' htk htk'
  rw [List.getElem?_map, htk] at htk'
  cases htk'
  exact .inl ⟨rfl, rfl⟩

/-- But for RESET, a change writes at most the acting task's record, or counts the timeouts down. -/
theorem Moved.onlyCompletes {o : Option Instr} {s t : State} (m : Moved o s t) (ho : o ≠ some .reset) :
    OnlyCompletes s.active s.tasks t.tasks := by
  cases m with
  | stays | keepsByte | skipsFrame | receives | emitsByte | receivesMessage | dropsMessage | sendsMessage =>
    exact onlyCompletes_refl _ _
  | begins _ _ _ _ _ h | takesTxLock _ _ _ h | takesToken _ _ _ h | writesThenReads _ _ _ _ h | takesRxLock _ _ h
  | takesCanLock _ _ _ h => exact onlyCompletes_set h.1 (.inl ⟨rfl, rfl⟩)
  | completesAtOnce _ _ _ h | setsNodeId _ _ h | writes _ _ _ _ h | reads _ _ _ _ _ _ h | queuesMessage _ _ _ h
  | takesMessage _ _ _ _ h => exact onlyCompletes_set h.1 (.inr ⟨rfl, rfl, _, rfl⟩)
  | failsAtOnce tk _ _ h | readFails tk _ _ h | expiresAtLock tk _ h | expiresAtToken tk _ h | expiresAtEnqueue tk _ h
  | expiresAtRxLock tk _ h | expiresReading tk _ h | expiresAtQueue tk _ h =>
    obtain ⟨r, hr⟩ := failed_tasks _ tk _ _
    exact hr ▸ onlyCompletes_set h.1 (.inr ⟨rfl, rfl, r, rfl⟩)
  | ticks => exact onlyCompletes_tick _ _
  | resets h => exact absurd h ho

/-- No change names another acting task. -/
theorem Moved.active_eq {o : Option Instr} {s t : State} (m : Moved o s t) : t.active = s.active := by
  cases m with
  | failsAtOnce | readFails | expiresAtLock | expiresAtToken | expiresAtEnqueue | expiresAtRxLock | expiresReading
  | expiresAtQueue =>
    rw [failed_eq_completed]
    rfl
  | _ => rfl

/-- Settles O54: the step's change is no reset, and the number of tasks is that of their programs. -/
theorem stepCompletesAtMostOneOperation : Obligations.StepCompletesAtMostOneOperation := by
  intro s t hstep hreset
  obtain ⟨a, ts, o, m, hfetch⟩ := step_moved hstep
  have hlength : t.tasks.length = s.tasks.length := by simpa using congrArg List.length m.tasks.progs
  have ho : o ≠ some .reset := fun ho => hreset ⟨_, hfetch _ ho⟩
  refine ⟨hlength, fun n tk tk' htk htk' => ?_⟩
  rw [m.active_eq]
  exact m.onlyCompletes ho n tk tk' htk htk'

end Sys2Proof.Machine

namespace Sys2Proof.Machine

/-! PROOFS. O9, O10, O52 and O57: the state that reset leaves, and the changes that give the ack token back. -/

/-! ## Reset and power-on (R310, R311) -/

theorem exec_reset (s : State) : exec .reset s = .next s.resetBlock := rfl

/-- A task after reset is at its reset values (R34), whatever its program. -/
theorem resetValues_of_mem_resetBlock {s : State} {tk : Task} (h : tk ∈ s.resetBlock.tasks) :
    tk.tpc = 0 ∧ tk.cur = none ∧ tk.results = [] := by
  obtain ⟨tk', _, rfl⟩ := List.mem_map.mp h
  exact ⟨rfl, rfl, rfl⟩

/-- Power-on is a reset (R311): a reset changes nothing of it. -/
theorem resetBlock_powerOn (c : Config) : (State.powerOn c).resetBlock = State.powerOn c := by
  simp [State.resetBlock, State.powerOn, idleTask]

theorem resetValues_of_mem_powerOn {c : Config} {tk : Task} (h : tk ∈ (State.powerOn c).tasks) :
    tk.tpc = 0 ∧ tk.cur = none ∧ tk.results = [] :=
  resetValues_of_mem_resetBlock (resetBlock_powerOn c ▸ h)

/-- Settles O9: RESET maps the power-on state to itself, and the items are read off `State.powerOn`. -/
theorem powerOnLeavesResetValues : Obligations.PowerOnLeavesResetValues := by
  refine ⟨⟨{}, rfl⟩, fun c => ⟨by rw [exec_reset, resetBlock_powerOn], ?_⟩⟩
  have hlength : (State.powerOn c).tasks.length = c.nTasks := List.length_replicate
  exact ⟨rfl, rfl, rfl, rfl, rfl, rfl, rfl, rfl, rfl, rfl, rfl, rfl, rfl, rfl, rfl, rfl, hlength,
    fun _ => resetValues_of_mem_powerOn, rfl, rfl⟩

/-- Settles O10: the items are read off `State.resetBlock`. -/
theorem resetEventRestoresBlock : Obligations.ResetEventRestoresBlock := by
  intro s
  have hlength : s.resetBlock.tasks.length = s.tasks.length := List.length_map _
  exact ⟨s.resetBlock, exec_reset s, rfl, rfl, rfl, rfl, rfl, rfl, rfl, rfl, rfl, rfl, rfl, rfl, rfl, rfl, rfl, hlength,
    fun _ => resetValues_of_mem_resetBlock, rfl, rfl, rfl⟩

/-! ## The invariant at power-on (R38, R311) -/

theorem blockInv_powerOn {c : Config} (h : c.legal = true) : BlockInv (State.powerOn c) where
  legal := h
  locks := resetBlock_powerOn c ▸ locksHeld_resetBlock (State.powerOn c)
  queues := queuesBounded_of_empty_rxBuf h rfl (Nat.zero_le _) (Nat.zero_le _) (Nat.zero_le _) (Nat.zero_le _)
  tasks :=
    { nTasks := List.length_replicate
      tpc := fun tk hmem => by
        obtain ⟨htpc, _, hresults⟩ := resetValues_of_mem_powerOn hmem
        rw [htpc, hresults, List.length_nil] }

/-- Settles O52: reset is power-on under the parameters of log 1, which are legal. -/
theorem resetMeetsBlockInvariant : Obligations.ResetMeetsBlockInvariant :=
  ⟨blockInv_powerOn (by decide), fun _ => blockInv_powerOn⟩

/-! ## Who gives the ack token back (R72, R316) -/

theorem actorGoes_failed {s : State} (s' : State) {old : Option Cur} (h : s.curOf s.active = old)
    (htasks : s'.tasks = s.tasks) (hactive : s'.active = s.active) (tk : Task) (op : Instr) (st : Status) :
    ActorGoes s (failed s' tk op st) old none := by
  rw [failed_eq_completed]
  exact actorGoes_completed { s' with draws := if isSendRequest op then s'.draws + 1 else s'.draws } h htasks hactive
    tk st _

/-- The operations whose completion may give the token back: a read or read half, and an expired write that took it. -/
def MayGiveTokenBack (c : Cur) : Prop :=
  (isReadOp c.op = true ∧ (c.phase = .rLock ∨ c.phase = .rRecv)) ∨
    (isWriteOp c.op = true ∧ c.phase = .wEnq ∧ c.gotToken = true ∧ c.tmo = 0)

/-- An operation in a read phase has a read, for it is in a phase of its own (R112). -/
theorem Placed.mayGiveTokenBack_of_read {c : Cur} (h : Placed c) (hp : c.phase = .rLock ∨ c.phase = .rRecv) :
    MayGiveTokenBack c := by
  obtain ⟨huses, _⟩ := h
  refine .inl ⟨?_, hp⟩
  rcases hp with hp | hp <;> simpa [hp, usesPhase] using huses

/-- An operation with got_token is a write in W_ENQ (R34). -/
theorem Placed.mayGiveTokenBack_of_expired {c : Cur} (h : Placed c) (hgot : c.gotToken = true) (htmo : c.tmo = 0) :
    MayGiveTokenBack c := by
  obtain ⟨huses, htoken⟩ := h
  have hp := htoken hgot
  exact .inr ⟨by simpa [hp, usesPhase] using huses, hp, hgot, htmo⟩

/-- The change completes the acting task's operation, one that may give the token back. -/
def TokenGiverCompletes (s t : State) : Prop := ∃ c, ActorGoes s t (some c) none ∧ MayGiveTokenBack c

/-- A token that is out stays out, but for the end of a read, of the expired write that took it, and for a reset. -/
theorem Moved.ackPending_cases {o : Option Instr} {s t : State} (m : Moved o s t) (h : LocksHeld s) :
    (s.ackPending = true → t.ackPending = true) ∨ TokenGiverCompletes s t ∨ o = some .reset := by
  cases m with
  | resets ho => exact .inr (.inr ho)
  | reads tk c b rest f r hr _ hp =>
    exact .inr (.inl ⟨c, actorGoes_completed (readDone s f rest) hr.curOf rfl rfl _ _ _,
      (h.placed hr.curOf).mayGiveTokenBack_of_read (.inr hp)⟩)
  | readFails tk c e hr _ hp | expiresReading tk c hr _ _ hp =>
    exact .inr (.inl ⟨c, actorGoes_failed (readDropped s) hr.curOf rfl rfl _ _ _,
      (h.placed hr.curOf).mayGiveTokenBack_of_read (.inr hp)⟩)
  | expiresAtRxLock tk c hr _ _ hp =>
    exact .inr (.inl ⟨c, actorGoes_failed { s with ackPending := false } hr.curOf rfl rfl _ _ _,
      (h.placed hr.curOf).mayGiveTokenBack_of_read (.inl hp)⟩)
  | expiresAtEnqueue tk c hr htmo =>
    cases hgot : c.gotToken with
    | true =>
      exact .inr (.inl ⟨c, actorGoes_failed { s with txLock := none, ackPending := false } hr.curOf rfl rfl _ _ _,
        (h.placed hr.curOf).mayGiveTokenBack_of_expired hgot htmo⟩)
    | false => exact .inl fun hout => by simpa [failed_eq_completed, completed] using hout
  | takesToken => exact .inl fun _ => rfl
  | failsAtOnce | expiresAtLock | expiresAtToken | expiresAtQueue =>
    rw [failed_eq_completed]
    exact .inl id
  | _ => exact .inl id

/-- Settles O57: the step's change does not leave the token out, so it is a reset or completes an operation that may give
the token back. -/
theorem tokenGivenBackOnlyByReadFailureOrReset : Obligations.TokenGivenBackOnlyByReadFailureOrReset := by
  intro s t hinv hstep hout hback
  obtain ⟨a, ts, o, m, hfetch⟩ := step_moved hstep
  rcases m.ackPending_cases (hinv.with_turn a ts).locks with hkeeps | ⟨c, g, hgiver⟩ | ho
  · simp [hkeeps hout] at hback
  · rw [m.active_eq]
    exact .inr ⟨c, g.before, g.after, hgiver⟩
  · exact .inl ⟨_, hfetch _ ho⟩

end Sys2Proof.Machine
